-- ==== Sys2Proof/Word.lean ====
section
/-! DEFINITION. The word types of the CHIP-8 core: a byte (8 bits), an opcode or 16-bit register, a nibble and a 12-bit
address field (00_scope section 5.1). Every quantity is unsigned (R6). -/

namespace Sys2Proof

/-- A byte: 8 bits (00_scope section 5.1). -/
abbrev Byte := BitVec 8

/-- A 16-bit value: an opcode, `I`, `PC`, or a return address (R4, R22, R24, R26, R70). -/
abbrev Word := BitVec 16

/-- A 4-bit field: `X`, `Y` or `N` (R71). -/
abbrev Nibble := BitVec 4

/-- The 12-bit address field `NNN` (R71). -/
abbrev Addr12 := BitVec 12

end Sys2Proof
end

