-- ==== Sys2Proof/Config.lean ====
section
/-! DEFINITION. The fixed parameters of R4 and the open parameters of R5. The default values of the open ones stand in
Sys2Proof/Machine/Font.lean. No rule leaves a result undefined, so there is no free value. -/

namespace Sys2Proof

/-- `MEM_SIZE`: addresses `0x000` to `0xFFF` (R4). -/
abbrev Config.memSize : Nat := 4096

/-- `PROG_BASE`: loaded programs occupy `0x200` upward (R4). -/
abbrev Config.progBase : Nat := 0x200

/-- `MAX_ROM` = `MEM_SIZE - PROG_BASE` (R4). -/
abbrev Config.maxRom : Nat := Config.memSize - Config.progBase

/-- `FB_W` (R4). -/
abbrev Config.fbWidth : Nat := 64

/-- `FB_H` (R4). -/
abbrev Config.fbHeight : Nat := 32

/-- `FONT_LEN`: 16 glyphs of 5 bytes (R4). -/
abbrev Config.fontLen : Nat := 80

/-- The open parameters of R5, each with the bound R5 gives it, so that no ill-formed value can be built. They are
arguments of boot, not state (R35): no step changes them (log entry 2). -/
structure Params where
  /-- `STACK_CAP`: `12 <= STACK_CAP <= 16` (R5, D4). -/
  stackCap : { n : Nat // 12 ≤ n ∧ n ≤ 16 }
  /-- `FONT_BASE`: `FONT_BASE + 80 <= 0x200` (R5, D5). -/
  fontBase : { a : Nat // a + Config.fontLen ≤ Config.progBase }
  /-- `FONT_TABLE`: the 80 font bytes (R5, D6). -/
  fontTable : Vector Byte Config.fontLen
deriving DecidableEq, Repr

end Sys2Proof
end

