-- ==== Sys2Proof/Syntax.lean ====
section
/-! DEFINITION. The six instructions of the core (R2, R74): one constructor per row of spec/opcode_table.json, the
operands with the widths of their fields (R73). -/

namespace Sys2Proof

/-- The implemented instruction set (R2). An opcode of no constructor is unrecognized (R76). -/
inductive Instr where
  /-- `CLS` (`0x00E0`): clear screen (R100). -/
  | cls
  /-- `RET` (`0x00EE`): return from subroutine (R101). -/
  | ret
  /-- `CALL addr` (`0x2NNN`): call subroutine (R110). -/
  | call (nnn : Addr12)
  /-- `LD Vx, byte` (`0x6XNN`): set register immediate (R120). -/
  | ldVx (x : Nibble) (nn : Byte)
  /-- `LD I, addr` (`0xANNN`): set index immediate (R121). -/
  | ldI (nnn : Addr12)
  /-- `DRW Vx, Vy, nibble` (`0xDXYN`): draw sprite (R130). -/
  | drw (x y n : Nibble)
deriving DecidableEq, Repr

end Sys2Proof
end

