-- ==== Sys2Proof/WellFormed.lean ====
section
/-! DEFINITION. Well-formedness of what comes from outside: the raw parameters of R5 and the ROM image of R182. The
operands of an instruction carry their widths in their types (R71), so its check holds of every term. -/

namespace Sys2Proof

/-- Every field is within its width (R71): 12, 8 or 4 bits. The types already say so (`Instr.wellFormed`). -/
def Instr.WellFormed : Instr → Prop
  | .cls => True
  | .ret => True
  | .call nnn => nnn.toNat < 4096
  | .ldVx x nn => x.toNat < 16 ∧ nn.toNat < 256
  | .ldI nnn => nnn.toNat < 4096
  | .drw x y n => x.toNat < 16 ∧ y.toNat < 16 ∧ n.toNat < 16

/-- No ill-formed instruction can be built. -/
theorem Instr.wellFormed (i : Instr) : i.WellFormed := by
  cases i <;> simp only [Instr.WellFormed] <;> omega

/-- `12 <= STACK_CAP <= 16` (R5). -/
abbrev stackCapOk (n : Nat) : Prop := 12 ≤ n ∧ n ≤ 16

/-- `FONT_BASE + 80 <= 0x200` (R5). -/
abbrev fontBaseOk (a : Nat) : Prop := a + Config.fontLen ≤ Config.progBase

/-- `FONT_TABLE` has 80 bytes (R5). -/
abbrev fontTableOk (t : List Byte) : Prop := t.length = Config.fontLen

/-- `len(ROM) <= 3584` (R151, R182). -/
abbrev romOk (rom : List Byte) : Prop := rom.length ≤ Config.maxRom

/-- The parameters made from raw values, when all three checks of R5 pass. -/
def Params.make? (cap base : Nat) (table : List Byte) : Option Params :=
  if hc : stackCapOk cap then
    if hb : fontBaseOk base then
      if ht : fontTableOk table then
        some { stackCap := ⟨cap, hc⟩, fontBase := ⟨base, hb⟩, fontTable := ⟨table.toArray, by simpa using ht⟩ }
      else none
    else none
  else none

end Sys2Proof
end

