-- ==== Sys2Proof/Decode.lean ====
section
/-! DEFINITION. From bytes to instructions and back: the big-endian opcode (R55, R70), the field extraction (R71, R72),
the opcode map (R74, R75), the decoder, and the encoder written from the formats of R73. -/

namespace Sys2Proof

/-- `op = MEM[PC] :: MEM[PC+1]`: the byte at the lower address is `op[15:8]` (R55). -/
def opcodeOf (b0 b1 : Byte) : Word := b0.setWidth 16 <<< 8 ||| b1.setWidth 16

/-- `op[15:8]`, the byte an opcode keeps at its lower address (R55). -/
def highByte (op : Word) : Byte := op.extractLsb' 8 8

/-- `op[7:0]`, the byte an opcode keeps at its higher address (R55). -/
def lowByte (op : Word) : Byte := op.extractLsb' 0 8

/-- The top nibble `op[15:12]`, the dispatch key (R71, R74). -/
def topNibble (op : Word) : Nibble := op.extractLsb' 12 4

/-- The Decoded Instruction: the opcode and its five fields, produced fresh each cycle (R35, R71). -/
structure Decoded where
  op : Word
  nnn : Addr12
  nn : Byte
  n : Nibble
  x : Nibble
  y : Nibble
deriving DecidableEq, Repr

/-- The spec's `decode`: total, no failure mode (R72); all five fields from every opcode (R71). -/
def decodeFields (op : Word) : Decoded where
  op := op
  nnn := op.extractLsb' 0 12
  nn := op.extractLsb' 0 8
  n := op.extractLsb' 0 4
  x := op.extractLsb' 8 4
  y := op.extractLsb' 4 4

/-- Dispatch in the order of R90's pseudocode; `none` is an unrecognized opcode (R74, R75, R76, R93). -/
def dispatch (d : Decoded) : Option Instr :=
  if d.op = 0x00E0#16 then some .cls
  else if d.op = 0x00EE#16 then some .ret
  else if topNibble d.op = 0x2#4 then some (.call d.nnn)
  else if topNibble d.op = 0x6#4 then some (.ldVx d.x d.nn)
  else if topNibble d.op = 0xA#4 then some (.ldI d.nnn)
  else if topNibble d.op = 0xD#4 then some (.drw d.x d.y d.n)
  else none

/-- Why bytes decode to no instruction. -/
inductive DecodeError where
  /-- Fewer than the two bytes every instruction has (R70). -/
  | truncated
  /-- An opcode of no row of the map (R76). -/
  | unimplementedOpcode (op : Word)
deriving DecidableEq, Repr

/-- The instruction the first two bytes hold, and the bytes after it (R70, R55, R74). -/
def decode : List Byte → Except DecodeError (Instr × List Byte)
  | b0 :: b1 :: rest =>
    match dispatch (decodeFields (opcodeOf b0 b1)) with
    | some i => .ok (i, rest)
    | none => .error (.unimplementedOpcode (opcodeOf b0 b1))
  | _ => .error .truncated

/-- The opcode of an instruction in the formats `K`, `A`, `XB`, `XYN` of R73: the fields side by side, each shifted to
the bits R71 gives it. -/
def encode : Instr → Word
  | .cls => 0x00E0#16
  | .ret => 0x00EE#16
  | .call nnn => 0x2000#16 ||| nnn.setWidth 16
  | .ldVx x nn => 0x6000#16 ||| x.setWidth 16 <<< 8 ||| nn.setWidth 16
  | .ldI nnn => 0xA000#16 ||| nnn.setWidth 16
  | .drw x y n => 0xD000#16 ||| x.setWidth 16 <<< 8 ||| y.setWidth 16 <<< 4 ||| n.setWidth 16

/-- The two bytes of an instruction in memory, the high half first (R55). -/
def encodeBytes (i : Instr) : List Byte := [highByte (encode i), lowByte (encode i)]

/-- A row of the opcode map of R74: an opcode selects it iff `op and mask = match`. -/
structure OpcodeRow where
  mnemonic : String
  pattern : Word
  mask : Word
deriving DecidableEq, Repr

/-- `op` selects the row: `op and mask = match` (R74). -/
def OpcodeRow.selects (r : OpcodeRow) (op : Word) : Bool := op &&& r.mask == r.pattern

/-- The six rows of R74 with the mnemonics of spec/opcode_table.json. -/
def opcodeTable : List OpcodeRow :=
  [ ⟨"CLS", 0x00E0#16, 0xFFFF#16⟩,
    ⟨"RET", 0x00EE#16, 0xFFFF#16⟩,
    ⟨"CALL", 0x2000#16, 0xF000#16⟩,
    ⟨"LD_Vx__byte", 0x6000#16, 0xF000#16⟩,
    ⟨"LD_I__addr", 0xA000#16, 0xF000#16⟩,
    ⟨"DRW_Vx__Vy__nibble", 0xD000#16, 0xF000#16⟩ ]

/-- The mnemonic of an instruction's row in spec/opcode_table.json. -/
def Instr.mnemonic : Instr → String
  | .cls => "CLS"
  | .ret => "RET"
  | .call _ => "CALL"
  | .ldVx _ _ => "LD_Vx__byte"
  | .ldI _ => "LD_I__addr"
  | .drw _ _ _ => "DRW_Vx__Vy__nibble"

/-- The opcode with bits `w`, those above `nbits` zero (log entry 13). -/
def tableOpcode (nbits w : Nat) : Word := BitVec.ofNat 16 (w % 2 ^ nbits)

/-- What the decoder reads from the opcode with bits `w`, its bytes laid out as memory holds them (R55). -/
def decodeTableWord (nbits w : Nat) : Option Instr :=
  match decode [highByte (tableOpcode nbits w), lowByte (tableOpcode nbits w)] with
  | .ok (i, _) => some i
  | .error _ => none

end Sys2Proof
end

