-- ==== Sys2Proof/Machine/Font.lean ====
section
/-! DEFINITION. The default values of the open parameters (R5): `STACK_CAP` 12 (D4), `FONT_BASE` 0 (D5) and the
conventional font of R56 (D6). -/

namespace Sys2Proof.Machine

/-- The default `FONT_TABLE` of R56, glyph by glyph; the spec marks it as from general knowledge (D6, log entry 2). -/
def defaultFontTable : Vector Byte Config.fontLen :=
  #v[0xF0#8, 0x90#8, 0x90#8, 0x90#8, 0xF0#8,  0x20#8, 0x60#8, 0x20#8, 0x20#8, 0x70#8] ++
  #v[0xF0#8, 0x10#8, 0xF0#8, 0x80#8, 0xF0#8,  0xF0#8, 0x10#8, 0xF0#8, 0x10#8, 0xF0#8] ++
  #v[0x90#8, 0x90#8, 0xF0#8, 0x10#8, 0x10#8,  0xF0#8, 0x80#8, 0xF0#8, 0x10#8, 0xF0#8] ++
  #v[0xF0#8, 0x80#8, 0xF0#8, 0x90#8, 0xF0#8,  0xF0#8, 0x10#8, 0x20#8, 0x40#8, 0x40#8] ++
  #v[0xF0#8, 0x90#8, 0xF0#8, 0x90#8, 0xF0#8,  0xF0#8, 0x90#8, 0xF0#8, 0x10#8, 0xF0#8] ++
  #v[0xF0#8, 0x90#8, 0xF0#8, 0x90#8, 0x90#8,  0xE0#8, 0x90#8, 0xE0#8, 0x90#8, 0xE0#8] ++
  #v[0xF0#8, 0x80#8, 0x80#8, 0x80#8, 0xF0#8,  0xE0#8, 0x90#8, 0x90#8, 0x90#8, 0xE0#8] ++
  #v[0xF0#8, 0x80#8, 0xF0#8, 0x80#8, 0xF0#8,  0xF0#8, 0x80#8, 0xF0#8, 0x80#8, 0x80#8]

/-- The default parameters (R5). -/
def defaultParams : Params where
  stackCap := ⟨12, by decide⟩
  fontBase := ⟨0x000, by decide⟩
  fontTable := defaultFontTable

end Sys2Proof.Machine
end

