-- ==== Sys2Proof/Machine/Memory.lean ====
section
/-! DEFINITION. Memory (R50) as a list of (address, byte) cells in one canonical form: addresses strictly rising and in
range, no cell equal to what an unlisted address reads as. The bounds check of R53 stands in Machine/Ops.lean. -/

namespace Sys2Proof.Machine

/-- Memory as data: the cells that differ from the reset contents. -/
abbrev Memory := List Host.Cell

/-- What an unlisted address reads as: the reset contents of R36, the font at `FONT_BASE` (R56, R181) and `0x00`
elsewhere (R36, D3; log entry 10). -/
def Memory.unlisted (p : Params) (a : Nat) : Byte :=
  if h : p.fontBase.val ≤ a ∧ a < p.fontBase.val + Config.fontLen then
    p.fontTable[a - p.fontBase.val]'(by omega)
  else 0x00#8

/-- The listed byte at `a`, if any. -/
def Memory.lookup : Memory → Nat → Option Byte
  | [], _ => none
  | c :: m, a => if c.1 = a then some c.2 else Memory.lookup m a

/-- `MEM[a]`. -/
def Memory.get (p : Params) (m : Memory) (a : Nat) : Byte :=
  match Memory.lookup m a with
  | some b => b
  | none => Memory.unlisted p a

/-- List `b` at `a`, in address order, in place of what was listed there. -/
def Memory.insert : Memory → Nat → Byte → Memory
  | [], a, b => [(a, b)]
  | c :: m, a, b =>
    if a < c.1 then (a, b) :: c :: m
    else if a = c.1 then (a, b) :: m
    else c :: Memory.insert m a b

/-- `MEM[a] <- b`; writing the unlisted value removes the cell, so that equal memories are equal lists. -/
def Memory.set (p : Params) (m : Memory) (a : Nat) (b : Byte) : Memory :=
  if b = Memory.unlisted p a then m.filter (fun c => c.1 != a) else Memory.insert m a b

/-- The canonical form. -/
abbrev Memory.wf (p : Params) (m : Memory) : Prop :=
  m.Pairwise (fun c d => c.1 < d.1) ∧ ∀ c ∈ m, c.1 < Config.memSize ∧ c.2 ≠ Memory.unlisted p c.1

end Sys2Proof.Machine
end

