-- ==== Sys2Proof/Machine/State.lean ====
section
/-! DEFINITION. The state of the machine (10_state), plain data, with the reset values of R36; the fault record of R33;
the host's transactions of R160 and the core's outputs to it; and the reasons a step of the model can stop. -/

namespace Sys2Proof.Machine

/-- `RUN` (R32). `halted` is the document's "Halted/Quit". -/
inductive RunState where
  | running
  | paused
  | halted
deriving DecidableEq, Repr

/-- The five fault kinds (R150). -/
inductive FaultKind where
  | programTooLarge
  | addressOutOfRange
  | stackOverflow
  | stackUnderflow
  | unimplementedOpcode
deriving DecidableEq, Repr

/-- `raise <Fault>(info)` (00_scope section 5.3): a fault kind with the information it carries (R151-R154). -/
inductive Raise where
  | programTooLarge
  | addressOutOfRange (addr : Nat)
  | stackOverflow
  | stackUnderflow
  | unimplementedOpcode (op : Word)
deriving DecidableEq, Repr

/-- The record `FAULT` latches (R33): `opcode` is absent for a fetch fault, `addr` is present only for
`AddressOutOfRange`, and `ProgramTooLarge` records its kind only (R150). `addr` is untruncated (R91, R132). -/
structure FaultRecord where
  kind : FaultKind
  pc : Option Word
  opcode : Option Word
  addr : Option Nat
deriving DecidableEq, Repr

/-- The framebuffer: 32 rows, top first, of 64 pixels, left first; true is on (R29). -/
abbrev Screen := Vector (Vector Bool Config.fbWidth) Config.fbHeight

/-- Which of the two timers a transaction names (R162). -/
inductive Timer where
  | delay
  | sound
deriving DecidableEq, Repr

/-- The host's transactions (R160). Each is atomic and happens between two cycles (R95). -/
inductive Transaction where
  /-- `Reset+Boot(ROM)` (R180). -/
  | boot (rom : List Byte)
  /-- `TimerTick` (R161). -/
  | timerTick
  /-- `TimerSet(t, v)` (R162). -/
  | timerSet (t : Timer) (v : Byte)
  /-- `TimerGet(t)` (R163). -/
  | timerGet (t : Timer)
  /-- `KeysWrite(k[0..15])` (R164). -/
  | keysWrite (k : Vector Bool 16)
  /-- `FbRead(x, y)` (R165). -/
  | fbRead (x : Fin Config.fbWidth) (y : Fin Config.fbHeight)
  /-- `DirtyRead` (R166). -/
  | dirtyRead
  /-- `DirtyClear` (R166). -/
  | dirtyClear
  /-- `PauseToggle` (R167). -/
  | pauseToggle
  /-- `HaltRequest` (R168). -/
  | haltRequest
  /-- `StatusRead` (R169). -/
  | statusRead
deriving DecidableEq, Repr

/-- Whose turn it is: one iteration of the core's loop, or one transaction of the host (R95, D20; log entry 6). -/
inductive Turn where
  | core
  | host (t : Transaction)
deriving DecidableEq, Repr

/-- What the core sends to the host: the answers of R163, R165, R166, R169 and the trace of R170 (log entry 7). -/
inductive Output where
  /-- The trace of a cycle whose fetch succeeded: the fetch address and the Decoded Instruction (R170, D31). -/
  | trace (pc0 : Word) (d : Decoded)
  /-- The answer of `TimerGet` (R163). -/
  | timer (t : Timer) (v : Byte)
  /-- The answer of `FbRead`, true for on (R165). -/
  | pixel (on : Bool)
  /-- The answer of `DirtyRead` (R166). -/
  | dirty (b : Bool)
  /-- The answer of `StatusRead` (R169). -/
  | status (run : RunState) (fault : Option FaultRecord)
deriving DecidableEq, Repr

/-- Why the model stops. -/
inductive Fault where
  /-- Raised by `step` alone, when the core is `Halted` and the host has no turn left: "a state with RUN = Halted has no
  successor but Reset+Boot" (R192, R157). It carries the diagnostic record. Safe: the hardware does nothing there. -/
  | halted (record : Option FaultRecord)
deriving DecidableEq, Repr

/-- Why the model gives an instruction no meaning. -/
inductive Refusal where
  /-- Raised by an arm of `exec` whose instruction has no meaning yet; no arm of this model raises it. Safe. -/
  | notModelled (mnemonic : String)
deriving DecidableEq, Repr

/-- The machine (10_state). Every field but the last three is a piece of state the spec names. -/
structure State where
  /-- `V[0]`..`V[15]`, `V[15]` being `VF` (R20, R21). -/
  v : Vector Byte 16
  /-- `I` (R22). -/
  ireg : Word
  /-- `PC` (R24). -/
  pc : Word
  /-- `SP`, the depth of the call stack (R26). -/
  sp : Fin 17
  /-- `STACK[k]` (R26). Only the first `STACK_CAP` entries exist in the hardware (R5; log entry 9). -/
  stack : Vector Word 16
  /-- `DT`, the delay timer (R28). -/
  dt : Byte
  /-- `ST`, the sound timer (R28). -/
  st : Byte
  /-- `KEYS[0]`..`KEYS[15]` (R31). -/
  keys : Vector Bool 16
  /-- `FB[y][x]` (R29). -/
  fb : Screen
  /-- `MEM` (R50). -/
  mem : Memory
  /-- `RUN` (R32). -/
  run : RunState
  /-- `FAULT` (R33). -/
  fault : Option FaultRecord
  /-- `DIRTY` (R30). -/
  dirty : Bool
  /-- `STACK_CAP`, `FONT_BASE`, `FONT_TABLE`: parameters that no step changes (R5, R35; log entry 2). -/
  params : Params
  /-- The turns still to come; after the last one every turn is the core's (the model's own, log entry 6). -/
  schedule : List Turn
  /-- What the core has sent to the host, newest first (the model's own, log entry 7). -/
  out : List Output
deriving DecidableEq, Repr

/-- A framebuffer with every pixel off (R36, R100). -/
def Screen.blank : Screen := Vector.replicate Config.fbHeight (Vector.replicate Config.fbWidth false)

/-- The state after `Reset+Boot` of an empty ROM with parameters `p` (R36, R183; log entry 3). -/
def State.resetWith (p : Params) : State where
  v := Vector.replicate 16 0x00#8
  ireg := 0x0000#16
  pc := 0x0200#16
  sp := 0
  stack := Vector.replicate 16 0x0000#16
  dt := 0x00#8
  st := 0x00#8
  keys := Vector.replicate 16 false
  fb := Screen.blank
  mem := []
  run := .running
  fault := none
  dirty := false
  params := p
  schedule := []
  out := []

/-- The machine right after reset, with the default parameters (R36, R5). -/
def State.reset : State := State.resetWith defaultParams

end Sys2Proof.Machine
end

