-- ==== Sys2Proof/Machine/Ops.lean ====
section
/-! DEFINITION. The named operations: updates of one field, the registers `V`, bounds-checked memory (R52, R53), the
call stack (R26), the framebuffer pixel (R29, R134), and taking a fault (R155), the one operation every fault goes
through. There is no return from a fault (R157). -/

namespace Sys2Proof.Machine

/-! ### One field at a time -/

/-- `I <- a`. -/
def State.setI (s : State) (a : Word) : State := { s with ireg := a }

/-- `PC <- a`. -/
def State.setPc (s : State) (a : Word) : State := { s with pc := a }

/-- `V[k] <- b` for `k` in 0..15; no register is hardwired (R20). -/
def State.setV (s : State) (k : Fin 16) (b : Byte) : State := { s with v := s.v.set k b }

/-- `V[k]` (R20). -/
def State.getV (s : State) (k : Fin 16) : Byte := s.v[k]

/-- The call stack with entry `k` written and depth `d` (R26). -/
def State.setStack (s : State) (k : Fin 16) (a : Word) (d : Fin 17) : State :=
  { s with stack := s.stack.set k a, sp := d }

/-- `SP <- d`. -/
def State.setSp (s : State) (d : Fin 17) : State := { s with sp := d }

/-- `FB <- f`. -/
def State.setFb (s : State) (f : Screen) : State := { s with fb := f }

/-- `DIRTY <- b`. -/
def State.setDirty (s : State) (b : Bool) : State := { s with dirty := b }

/-- `MEM <- m`. -/
def State.setMem (s : State) (m : Memory) : State := { s with mem := m }

/-- `RUN <- r`. -/
def State.setRun (s : State) (r : RunState) : State := { s with run := r }

/-- `FAULT <- f`. -/
def State.setFault (s : State) (f : Option FaultRecord) : State := { s with fault := f }

/-- `DT <- b`. -/
def State.setDt (s : State) (b : Byte) : State := { s with dt := b }

/-- `ST <- b`. -/
def State.setSt (s : State) (b : Byte) : State := { s with st := b }

/-- `KEYS <- k`. -/
def State.setKeys (s : State) (k : Vector Bool 16) : State := { s with keys := k }

/-- The turns still to come. -/
def State.setSchedule (s : State) (l : List Turn) : State := { s with schedule := l }

/-- The core sends `o` to the host. -/
def State.emit (s : State) (o : Output) : State := { s with out := o :: s.out }

/-! ### Memory -/

/-- `MemRead(a, 1)`: bounds-checked, never reduced modulo 4096, no side effect (R53, R59). -/
def readByte (s : State) (a : Nat) : Except Raise Byte :=
  if a < Config.memSize then .ok (Memory.get s.params s.mem a) else .error (.addressOutOfRange a)

/-- `MemWrite(a, 1, b)`, under the same bound (R53); used by the loader only (R57). -/
def writeByte (s : State) (a : Nat) (b : Byte) : Except Raise State :=
  if a < Config.memSize then .ok (s.setMem (Memory.set s.params s.mem a b)) else .error (.addressOutOfRange a)

/-- `n` byte reads at `a`, `a + 1`, ... in ascending order; the first address out of range is the one raised
(R132, R135, R156). -/
def readBytes (s : State) : Nat → Nat → Except Raise (List Byte)
  | _, 0 => .ok []
  | a, n + 1 =>
    match readByte s a with
    | .error r => .error r
    | .ok b =>
      match readBytes s (a + 1) n with
      | .error r => .error r
      | .ok bs => .ok (b :: bs)

/-- Bytes stored at `a`, `a + 1`, ... by `MemWrite` (R181, R182). The addresses differ, so the order of the writes
does not show; the last byte goes first (log entry 14). -/
def writeBytes (s : State) : Nat → List Byte → Except Raise State
  | _, [] => .ok s
  | a, b :: bs =>
    match writeBytes s (a + 1) bs with
    | .error r => .error r
    | .ok t => writeByte t a b

/-! ### The call stack -/

/-- `Push(a)` (R26): `StackOverflow` at capacity, before anything is written. -/
def push (s : State) (a : Word) : Except Raise State :=
  if h : s.sp.val < s.params.stackCap.val then
    .ok (s.setStack ⟨s.sp.val, Nat.lt_of_lt_of_le h s.params.stackCap.property.2⟩ a
      ⟨s.sp.val + 1, Nat.succ_lt_succ (Nat.lt_of_lt_of_le h s.params.stackCap.property.2)⟩)
  else .error .stackOverflow

/-- `Pop()` (R26): `StackUnderflow` when empty; the popped entry's bits stay in place (R27). -/
def pop (s : State) : Except Raise (Word × State) :=
  if h : s.sp.val = 0 then .error .stackUnderflow
  else .ok (s.stack[s.sp.val - 1]'(by omega), s.setSp ⟨s.sp.val - 1, by omega⟩)

/-! ### The framebuffer -/

/-- `FB[y][x]` (R29). -/
def Screen.pixel (f : Screen) (x : Fin Config.fbWidth) (y : Fin Config.fbHeight) : Bool := f[y][x]

/-- `FB[y][x] <- not FB[y][x]`: the XOR of a sprite bit 1 (R134). -/
def Screen.invert (f : Screen) (x : Fin Config.fbWidth) (y : Fin Config.fbHeight) : Screen :=
  f.set y (f[y].set x (!f[y][x]))

/-! ### Taking a fault -/

/-- The kind a `raise` names (R150). -/
def Raise.kind : Raise → FaultKind
  | .programTooLarge => .programTooLarge
  | .addressOutOfRange _ => .addressOutOfRange
  | .stackOverflow => .stackOverflow
  | .stackUnderflow => .stackUnderflow
  | .unimplementedOpcode _ => .unimplementedOpcode

/-- The offending address, present only for `AddressOutOfRange` (R33). -/
def Raise.addr : Raise → Option Nat
  | .addressOutOfRange a => some a
  | _ => none

/-- The numeric fault codes of R150, in the order the source lists the kinds (D12). -/
def FaultKind.code : FaultKind → Nat
  | .programTooLarge => 1
  | .addressOutOfRange => 2
  | .stackOverflow => 3
  | .stackUnderflow => 4
  | .unimplementedOpcode => 5

/-- The code of `FAULT`: 0 for none (R150). -/
def State.faultCode (s : State) : Nat :=
  match s.fault with
  | none => 0
  | some f => f.kind.code

/-- Taking a fault (R155): `FAULT` is latched if none was, and `RUN <- Halted`; nothing else changes. There is no
vector and no saved context. `pc` is the fetch address and `op` the opcode, where the cycle has them (R33). -/
def takeFault (s : State) (r : Raise) (pc op : Option Word) : State :=
  let record : FaultRecord := { kind := r.kind, pc := pc, opcode := op, addr := r.addr }
  let latched := match s.fault with
    | none => some record
    | some f => some f
  (s.setFault latched).setRun .halted

/-- A fault raised while instruction `i` executes. `PC` has been advanced by 2 (R92), so the fetch address is
`PC - 2` modulo 2^16, and the opcode is the word of `i`, which fixes all 16 bits (R76; log entry 8). -/
def takeFaultIn (s : State) (r : Raise) (i : Instr) : State :=
  takeFault s r (some (s.pc - 2#16)) (some (encode i))

end Sys2Proof.Machine
end

