-- ==== Sys2Proof/Machine/Operands.lean ====
section
/-! DEFINITION. The operand forms: a register field, an 8-bit immediate, a 12-bit address, and the operands `DRW`
makes of its fields (R6, R71, R131, R132). -/

namespace Sys2Proof.Machine

/-- The register a 4-bit field `X` or `Y` names; any of the sixteen, `VF` included (R20). -/
def regIndex (x : Nibble) : Fin 16 := x.toFin

/-- The value of the register a field names (R20). -/
def regOperand (s : State) (x : Nibble) : Byte := s.getV (regIndex x)

/-- `NNN` in a 16-bit register: four zero bits on the left (R6). -/
def addrOperand (nnn : Addr12) : Word := nnn.setWidth 16

/-- `NN` fills an 8-bit register exactly (R6). -/
def byteOperand (nn : Byte) : Byte := nn

/-- `x0 = V[X] mod 64` (R131). -/
def startColumn (s : State) (x : Nibble) : Fin Config.fbWidth :=
  ⟨(regOperand s x).toNat % Config.fbWidth, Nat.mod_lt _ (by decide)⟩

/-- `y0 = V[Y] mod 32` (R131). -/
def startRow (s : State) (y : Nibble) : Fin Config.fbHeight :=
  ⟨(regOperand s y).toNat % Config.fbHeight, Nat.mod_lt _ (by decide)⟩

/-- `rows = min(N, 32 - y0)`: the rows not clipped at the bottom (R132). -/
def spriteRows (n : Nibble) (y0 : Fin Config.fbHeight) : Nat := min n.toNat (Config.fbHeight - y0.val)

/-- The address of the first sprite byte, as a natural number so that `I + r` is not truncated (R132). -/
def spriteAddress (s : State) : Nat := s.ireg.toNat

/-- The read phase of `DRW`: the bytes of the rows that are drawn, all checked before anything is written
(R132, R135). -/
def spriteBytes (s : State) (y n : Nibble) : Except Raise (List Byte) :=
  readBytes s (spriteAddress s) (spriteRows n (startRow s y))

end Sys2Proof.Machine
end

