-- ==== Sys2Proof/Machine/Flags.lean ====
section
/-! DEFINITION. The flags. `VF` (`V[15]`) is the only flag of the architecture, and the collision of `DRW` is the only
use of it as one (R21, R134); `DIRTY` is set by every `CLS` and every `DRW` that does not fault (R30). -/

namespace Sys2Proof.Machine

/-- The index of `VF` (R21). -/
def vf : Fin 16 := 15

/-- The 8-bit value `VF` receives: `0x01` for a collision, else `0x00` (R134). -/
def collisionByte (hit : Bool) : Byte := if hit then 0x01#8 else 0x00#8

/-- `VF <- collision` (R134). -/
def setCollision (s : State) (hit : Bool) : State := s.setV vf (collisionByte hit)

/-- `DIRTY <- 1` (R30, D15). -/
def markDirty (s : State) : State := s.setDirty true

end Sys2Proof.Machine
end

