-- ==== Sys2Proof/Machine/Call.lean ====
section
/-! DEFINITION. Family 0x2: `CALL` (42_family_2_call). It runs after the fetch and the advance of `PC`. -/

namespace Sys2Proof.Machine

/-- `CALL addr`: `Push(PC); PC <- NNN`, or `StackOverflow` with nothing pushed and `PC` not overwritten (R110). -/
def execCall (nnn : Addr12) (s : State) : Host.Outcome State Fault Refusal :=
  match push s s.pc with
  | .ok t => .next (t.setPc (addrOperand nnn))
  | .error r => .next (takeFaultIn s r (.call nnn))

end Sys2Proof.Machine
end

