-- ==== Sys2Proof/Machine/ClsRet.lean ====
section
/-! DEFINITION. Family 0x0: `CLS` and `RET` (41_family_0_cls_ret). Each runs after the fetch and the advance of `PC`. -/

namespace Sys2Proof.Machine

/-- `CLS`: every pixel off, `DIRTY <- 1`; it cannot fail (R100). -/
def execCls (s : State) : Host.Outcome State Fault Refusal :=
  .next (markDirty (s.setFb Screen.blank))

/-- `RET`: `PC <- Pop()`, or `StackUnderflow` with `PC` and `SP` not written (R101). -/
def execRet (s : State) : Host.Outcome State Fault Refusal :=
  match pop s with
  | .ok (a, t) => .next (t.setPc a)
  | .error r => .next (takeFaultIn s r .ret)

end Sys2Proof.Machine
end

