-- ==== Sys2Proof/Machine/Draw.lean ====
section
/-! DEFINITION. Family 0xD: `DRW` (44_family_D_draw), with the loops of R130's pseudocode. It runs after the fetch and
the advance of `PC`. -/

namespace Sys2Proof.Machine

/-- What the draw phase works on: the framebuffer, and whether an on pixel has been turned off so far (R134). -/
structure Canvas where
  fb : Screen
  hit : Bool
deriving DecidableEq, Repr

/-- A drawn sprite bit 1 at column `x`, row `y`: collision if the pixel is on, then the XOR (R134). -/
def Canvas.plot (c : Canvas) (x : Fin Config.fbWidth) (y : Fin Config.fbHeight) : Canvas where
  fb := c.fb.invert x y
  hit := c.hit || c.fb.pixel x y

/-- The last `k` bits of one sprite row, from most to least significant. With `k + 1` bits left the column offset is
`b = 7 - k` and the bit is bit `7 - b = k`; a column past 63 ends the row (R133). -/
def drawBits (b : Byte) (x0 : Fin Config.fbWidth) (y : Fin Config.fbHeight) : Nat → Canvas → Canvas
  | 0, c => c
  | k + 1, c =>
    if h : x0.val + (7 - k) < Config.fbWidth then
      drawBits b x0 y k (if b.getLsbD k then c.plot ⟨x0.val + (7 - k), h⟩ y else c)
    else c

/-- The rows of a sprite from row `y` down; a row past 31 ends the draw (R132). -/
def drawRows (x0 : Fin Config.fbWidth) : Nat → List Byte → Canvas → Canvas
  | _, [], c => c
  | y, b :: bs, c =>
    if h : y < Config.fbHeight then drawRows x0 (y + 1) bs (drawBits b x0 ⟨y, h⟩ 8 c) else c

/-- The draw phase of `DRW` on the framebuffer of `s` (R130). -/
def drawSprite (s : State) (x y : Nibble) (bytes : List Byte) : Canvas :=
  drawRows (startColumn s x) (startRow s y).val bytes { fb := s.fb, hit := false }

/-- `DRW Vx, Vy, nibble`: the coordinates are read before `VF` is written (R131), all memory reads come before any
write (R135), then the sprite is drawn, `VF` takes the collision and `DIRTY <- 1` (R130). -/
def execDrw (x y n : Nibble) (s : State) : Host.Outcome State Fault Refusal :=
  match spriteBytes s y n with
  | .error r => .next (takeFaultIn s r (.drw x y n))
  | .ok bytes =>
    let c := drawSprite s x y bytes
    .next (markDirty (setCollision (s.setFb c.fb) c.hit))

end Sys2Proof.Machine
end

