-- ==== Sys2Proof/Machine/LoadImmediate.lean ====
section
/-! DEFINITION. Families 0x6 and 0xA: `LD Vx, byte` and `LD I, addr` (43_family_6_A_load_immediate). -/

namespace Sys2Proof.Machine

/-- `LD Vx, byte`: `V[X] <- NN`, unconditional, `VF` like any other register (R120). -/
def execLdVx (x : Nibble) (nn : Byte) (s : State) : Host.Outcome State Fault Refusal :=
  .next (s.setV (regIndex x) (byteOperand nn))

/-- `LD I, addr`: `I <- zext_16(NNN)`, unconditional (R121). -/
def execLdI (nnn : Addr12) (s : State) : Host.Outcome State Fault Refusal :=
  .next (s.setI (addrOperand nnn))

end Sys2Proof.Machine
end

