-- ==== Sys2Proof/Machine/Cycle.lean ====
section
/-! DEFINITION. The fetch-decode-execute cycle (R90) and one iteration of the loop (R96). -/

namespace Sys2Proof.Machine

/-- Fetch: `MEM[PC]` then `MEM[PC + 1]`, `PC + 1` formed without truncation (R91). -/
def fetch (s : State) : Except Raise (Byte × Byte) :=
  match readByte s s.pc.toNat with
  | .error r => .error r
  | .ok b0 =>
    match readByte s (s.pc.toNat + 1) with
    | .error r => .error r
    | .ok b1 => .ok (b0, b1)

/-- `PC <- (PC + 2) mod 2^16` (R92, D22). -/
def advance (s : State) : State := s.setPc (s.pc + 2#16)

/-- The state the Executor starts from when `op` has been fetched in `s`: the trace emitted (R170) and `PC`
advanced (R92). -/
def fetched (s : State) (op : Word) : State := advance (s.emit (.trace s.pc (decodeFields op)))

/-- One cycle (R90): a fetch fault leaves `PC` and has no opcode (R91); an unrecognized opcode raises
`UnimplementedOpcode` after the advance (R140, R92). -/
def cycle (s : State) : Host.Outcome State Fault Refusal :=
  match fetch s with
  | .error r => .next (takeFault s r (some s.pc) none)
  | .ok (b0, b1) =>
    let op := opcodeOf b0 b1
    match dispatch (decodeFields op) with
    | some i => exec i (fetched s op)
    | none => .next (takeFault (fetched s op) (.unimplementedOpcode op) (some s.pc) (some op))

/-- The core's turn: a cycle in `Running` (R90); in `Paused` and `Halted` no cycle occurs and nothing changes
(R96). -/
def iteration (s : State) : Host.Outcome State Fault Refusal :=
  match s.run with
  | .running => cycle s
  | .paused => .next s
  | .halted => .next s

/-- The core's turn when the host has no turn left. `Halted` is then stuck: "a state with RUN = Halted has no successor
but Reset+Boot" (R192; log entry 4). -/
def lastIteration (s : State) : Host.Outcome State Fault Refusal :=
  match s.run with
  | .running => cycle s
  | .paused => .next s
  | .halted => .fault (.halted s.fault)

/-- Where the next opcode can be stored: `PC` when both its bytes exist, else `PROG_BASE` (log entry 11). -/
def placeAddress (s : State) : Word := if s.pc.toNat + 1 < Config.memSize then s.pc else BitVec.ofNat 16 Config.progBase

/-- `s` with `op` stored where the next cycle fetches, and that cycle the next step: the core `Running`, the turn the
core's (log entry 11). -/
def placeOpcode (s : State) (op : Word) : State :=
  let a := placeAddress s
  let m := Memory.set s.params s.mem a.toNat (highByte op)
  let m := Memory.set s.params m (a.toNat + 1) (lowByte op)
  (((s.setPc a).setMem m).setRun .running).setSchedule []

end Sys2Proof.Machine
end

