-- ==== Sys2Proof/Machine/HostPort.lean ====
section
/-! DEFINITION. The host's side (60_exceptions section 4, 70_reset_and_hazards section 1): reset and boot, the timers,
the keypad, the framebuffer read port, the dirty flag, pause, halt and status. Every transaction is enabled in every
run state (R160, D24). -/

namespace Sys2Proof.Machine

/-- `load_font`: the table at `FONT_BASE` (R181). -/
def loadFont (s : State) : Except Raise State :=
  writeBytes s s.params.fontBase.val s.params.fontTable.toList

/-- `load_program`: the ROM at `0x200`, or `ProgramTooLarge` with no byte written (R151, R182, D25). -/
def loadProgram (s : State) (rom : List Byte) : Except Raise State :=
  if rom.length ≤ Config.maxRom then writeBytes s Config.progBase rom else .error .programTooLarge

/-- `Reset+Boot(ROM)` (R180): every piece of the machine's state at its reset value, then font, program and `RUN`.
A ROM that is too large leaves the font loaded, `RUN = Halted` and `FAULT = {ProgramTooLarge}` (R183). The host's own
schedule and the log of what it was sent are not the machine's and stay (log entry 7). -/
def boot (s : State) (rom : List Byte) : State :=
  let s0 := { State.resetWith s.params with schedule := s.schedule, out := s.out }
  match loadFont s0 with
  | .error r => takeFault s0 r none none
  | .ok s1 =>
    match loadProgram s1 rom with
    | .error r => takeFault s1 r none none
    | .ok s2 => s2.setRun .running

/-- One tick of a timer: down to 0 and not below (R161, D14). -/
def tick (b : Byte) : Byte := if b = 0x00#8 then b else b - 1#8

/-- The timer a transaction names (R28, R163). -/
def State.timer (s : State) : Timer → Byte
  | .delay => s.dt
  | .sound => s.st

/-- The timer a transaction names, set (R162). -/
def State.setTimer (s : State) (t : Timer) (b : Byte) : State :=
  match t with
  | .delay => s.setDt b
  | .sound => s.setSt b

/-- The derived output `sound_active = (ST != 0)` (R163). -/
def State.soundActive (s : State) : Bool := s.st != 0x00#8

/-- `PauseToggle`: `Running <-> Paused`; no effect in `Halted` (R167, D29). -/
def RunState.toggle : RunState → RunState
  | .running => .paused
  | .paused => .running
  | .halted => .halted

/-- What a transaction does to the machine. -/
def hostEffect (s : State) : Transaction → State
  | .boot rom => boot s rom
  | .timerTick => (s.setDt (tick s.dt)).setSt (tick s.st)
  | .timerSet t b => s.setTimer t b
  | .timerGet _ => s
  | .keysWrite k => s.setKeys k
  | .fbRead _ _ => s
  | .dirtyRead => s
  | .dirtyClear => s.setDirty false
  | .pauseToggle => s.setRun s.run.toggle
  | .haltRequest => s.setRun .halted
  | .statusRead => s

/-- What a transaction answers, where it is a read (R163, R165, R166, R169). -/
def hostAnswer (s : State) : Transaction → Option Output
  | .timerGet t => some (.timer t (s.timer t))
  | .fbRead x y => some (.pixel (s.fb.pixel x y))
  | .dirtyRead => some (.dirty s.dirty)
  | .statusRead => some (.status s.run s.fault)
  | .boot _ => none
  | .timerTick => none
  | .timerSet _ _ => none
  | .keysWrite _ => none
  | .dirtyClear => none
  | .pauseToggle => none
  | .haltRequest => none

/-- One host transaction: its effect, and its answer sent to the host (R160). -/
def transact (s : State) (t : Transaction) : State :=
  match hostAnswer s t with
  | none => hostEffect s t
  | some o => (hostEffect s t).emit o

end Sys2Proof.Machine
end

