-- ==== Sys2Proof/Machine/Step.lean ====
section
/-! DEFINITION. One step of the machine: the next turn of the schedule, the core's or the host's (R95, D20; log entry
6), and the core's turn for ever after it. -/

namespace Sys2Proof.Machine

/-- One step: a host transaction, or one iteration of the core's loop (R90, R95, R96). -/
def step (s : State) : Host.Outcome State Fault Refusal :=
  match s.schedule with
  | [] => lastIteration s
  | .core :: rest => iteration (s.setSchedule rest)
  | .host t :: rest => .next (transact (s.setSchedule rest) t)

/-- `s` with the opcode of bits `w` placed so that the next step runs it (log entries 11, 13). -/
def State.withFetchWord (s : State) (nbits w : Nat) : State := placeOpcode s (tableOpcode nbits w)

end Sys2Proof.Machine
end

