-- ==== Sys2Proof/Safety.lean ====
section
/-! DEFINITION. The terms claims use: the invariant of the machine (R23, R25, R26, R33, R155), the end of a run (R192),
what an instruction keeps (the frames), and when two states look alike to the core (R97). -/

namespace Sys2Proof.Machine

/-- What holds at reset and is kept by every step: canonical memory, `I <= 0xFFF` (R23), `PC <= 0x1000` (R25), depth
within capacity (R26), return addresses a `CALL` can have pushed (R25, R101), and a latched fault only in `Halted`
(R155, R157). -/
structure State.Inv (s : State) : Prop where
  mem_wf : Memory.wf s.params s.mem
  ireg_le : s.ireg.toNat ≤ 0x0FFF
  pc_le : s.pc.toNat ≤ 0x1000
  sp_le : s.sp.val ≤ s.params.stackCap.val
  stack_le : ∀ k : Fin 16, k.val < s.sp.val → s.stack[k].toNat ≤ 0x1000
  fault_halts : s.fault ≠ none → s.run = .halted

/-- A run has ended (R192). -/
def State.Ended (s : State) : Prop := s.run = .halted

/-- The spec's convention for a good end: the halt on the opcode `0x0000` at the intended stop address `p`
(R192, D21). -/
def State.GoodEnd (s : State) (p : Word) : Prop :=
  s.run = .halted ∧
    s.fault = some { kind := .unimplementedOpcode, pc := some p, opcode := some 0x0000#16, addr := none }

/-- `SP` and `STACK` are unchanged. -/
structure KeepsStack (s t : State) : Prop where
  sp : t.sp = s.sp
  stack : t.stack = s.stack

/-- `FB` and `DIRTY` are unchanged. -/
structure KeepsScreen (s t : State) : Prop where
  fb : t.fb = s.fb
  dirty : t.dirty = s.dirty

/-- `RUN` and `FAULT` are unchanged. -/
structure KeepsControl (s t : State) : Prop where
  run : t.run = s.run
  fault : t.fault = s.fault

/-- What only the host reaches, the parameters, the schedule and the output log are unchanged. -/
structure KeepsHostSide (s t : State) : Prop where
  dt : t.dt = s.dt
  st : t.st = s.st
  keys : t.keys = s.keys
  params : t.params = s.params
  schedule : t.schedule = s.schedule
  out : t.out = s.out

/-- Every address reads as it did, the ones that do not exist included. -/
def KeepsMemory (s t : State) : Prop := ∀ a, readByte t a = readByte s a

/-- The registers, the stack, the framebuffer and memory are unchanged: what no host transaction but boot writes
(R180), and what no cycle changes while none occurs (R96). -/
structure KeepsCore (s t : State) : Prop where
  v : t.v = s.v
  ireg : t.ireg = s.ireg
  pc : t.pc = s.pc
  stack : KeepsStack s t
  fb : t.fb = s.fb
  mem : t.mem = s.mem
  params : t.params = s.params

/-- Two states agree on everything but what the host writes freely: `DT`, `ST`, `KEYS`, `DIRTY`, its schedule and its
log (R97). -/
structure CoreAgrees (s t : State) : Prop where
  core : KeepsCore s t
  control : KeepsControl s t

/-- `t` is `s` after a fault whose record is `f`: `RUN` is `Halted`, `FAULT` keeps the first record, all else is
unchanged (R155). -/
structure FaultedWith (s t : State) (f : FaultRecord) : Prop where
  core : KeepsCore s t
  dirty : t.dirty = s.dirty
  host : KeepsHostSide s t
  run : t.run = .halted
  fault : t.fault = some (s.fault.getD f)

/-- The sprite `bytes` drawn with its top left at `(x0, y0)` has a drawn 1-bit at column `x`, row `y`: byte `r = y - y0`,
bit `7 - b` with `b = x - x0` in 0..7 (R132, R133). `bytes` holds the rows that are not clipped. -/
def SpriteCovers (bytes : Nat → Byte) (rows x0 y0 x y : Nat) : Bool :=
  decide (y0 ≤ y ∧ y < y0 + rows ∧ x0 ≤ x ∧ x < x0 + 8) && (bytes (y - y0)).getLsbD (7 - (x - x0))

end Sys2Proof.Machine
end

