-- ==== Sys2Proof/Certificates/Slice0/Obligations.lean ====
section
/-! DEFINITION. The statements for the provers, family by family: encoding, memory, the six instructions, faults, the
cycle, the host, boot, and the whole machine. OBLIGATIONS.json says which rule each rests on. -/

open Sys2Proof Sys2Proof.Machine

/-! ### Encoding (30_encoding) -/

/-- R71: the five fields of every opcode are the masks and shifts of the source, and they tile. -/
def Obligations.DecodeExtractsMaskedFields : Prop :=
  ∀ op : Word,
    (decodeFields op).op = op ∧
    (decodeFields op).nnn.setWidth 16 = op &&& 0x0FFF#16 ∧
    (decodeFields op).nn.setWidth 16 = op &&& 0x00FF#16 ∧
    (decodeFields op).n.setWidth 16 = op &&& 0x000F#16 ∧
    (decodeFields op).x.setWidth 16 = (op >>> 8) &&& 0x000F#16 ∧
    (decodeFields op).y.setWidth 16 = (op >>> 4) &&& 0x000F#16 ∧
    (topNibble op).setWidth 16 = op >>> 12 ∧
    (decodeFields op).nnn.toNat =
      (decodeFields op).x.toNat * 256 + (decodeFields op).y.toNat * 16 + (decodeFields op).n.toNat ∧
    (decodeFields op).nn.toNat = (decodeFields op).y.toNat * 16 + (decodeFields op).n.toNat ∧
    op.toNat = (topNibble op).toNat * 4096 + (decodeFields op).nnn.toNat

/-- R74, R75: dispatch picks the row whose mask and match select the opcode, no two rows select one opcode, and the
operands are the fields of R71. Rests on the spec's decision (log entry 1) D8 (`CLS` and `RET` match all 16 bits). -/
def Obligations.DispatchFollowsOpcodeMap : Prop :=
  (∀ op : Word, (dispatch (decodeFields op)).map Instr.mnemonic =
    (opcodeTable.find? (fun r => r.selects op)).map OpcodeRow.mnemonic) ∧
  (∀ op : Word, opcodeTable.Pairwise (fun r q => ¬(r.selects op = true ∧ q.selects op = true))) ∧
  (∀ (op : Word) (i : Instr), dispatch (decodeFields op) = some i →
    match i with
    | .cls => op = 0x00E0#16
    | .ret => op = 0x00EE#16
    | .call nnn => nnn = (decodeFields op).nnn
    | .ldVx x nn => x = (decodeFields op).x ∧ nn = (decodeFields op).nn
    | .ldI nnn => nnn = (decodeFields op).nnn
    | .drw x y n => x = (decodeFields op).x ∧ y = (decodeFields op).y ∧ n = (decodeFields op).n)

/-- R76: the unrecognized opcodes are family 0 without the two constants, and the eleven families. Rests on the spec's
decision (log entry 1) D8 (`CLS` and `RET` match all 16 bits). -/
def Obligations.UnrecognizedOpcodesAreExactlyTheRest : Prop :=
  ∀ op : Word, dispatch (decodeFields op) = none ↔
    ((op.toNat ≤ 0x0FFF ∧ op ≠ 0x00E0#16 ∧ op ≠ 0x00EE#16) ∨
      (0x1000 ≤ op.toNat ∧ op.toNat ≤ 0x1FFF) ∨
      (0x3000 ≤ op.toNat ∧ op.toNat ≤ 0x5FFF) ∨
      (0x7000 ≤ op.toNat ∧ op.toNat ≤ 0x9FFF) ∨
      (0xB000 ≤ op.toNat ∧ op.toNat ≤ 0xCFFF) ∨
      (0xE000 ≤ op.toNat))

/-- R78 (assembling is the inverse of the formats), R73: the words as sums. -/
def Obligations.EncodingsAreTheSumsOfTheirFields : Prop :=
  (∀ nnn : Addr12, (encode (.call nnn)).toNat = 0x2000 + nnn.toNat) ∧
  (∀ (x : Nibble) (nn : Byte), (encode (.ldVx x nn)).toNat = 0x6000 + x.toNat * 256 + nn.toNat) ∧
  (∀ nnn : Addr12, (encode (.ldI nnn)).toNat = 0xA000 + nnn.toNat) ∧
  (∀ x y n : Nibble, (encode (.drw x y n)).toNat = 0xD000 + x.toNat * 256 + y.toNat * 16 + n.toNat) ∧
  (encode .cls).toNat = 0x00E0 ∧ (encode .ret).toNat = 0x00EE

/-- Decoding the bytes of any instruction gives it back, every operand at every value, whatever follows (R70, R73,
R55). Rests on the spec's decision (log entry 1) D1 (the first byte is the high half; general knowledge, PRESUMED). -/
def Obligations.DecodeOfEncodeIsIdentity : Prop :=
  ∀ (i : Instr) (rest : List Byte), decode (encodeBytes i ++ rest) = .ok (i, rest)

/-- Bytes that decode are the bytes of the instruction they decode to: each recognized word has one meaning, and none
of its bits is ignored (R76, R55). Rests on the spec's decisions (log entry 1) D1 (the first byte is the high half;
general knowledge, PRESUMED), D8 (`CLS` and `RET` match all 16 bits). -/
def Obligations.EncodeOfDecodeIsIdentity : Prop :=
  ∀ (bs rest : List Byte) (i : Instr), decode bs = .ok (i, rest) → bs = encodeBytes i ++ rest

/-- A few words of the spec (T-DEC, R74, R75), given as the bytes memory holds, the high half first (R55); `0x01E0` is
refused. Rests on the spec's decisions (log entry 1) D1 (the first byte is the high half; general knowledge,
PRESUMED), D8 (`CLS` and `RET` match all 16 bits). -/
def Obligations.SpecWordsDecodeAsTheTableSays : Prop :=
  decode [0x00#8, 0xE0#8] = .ok (.cls, []) ∧
  decode [0x00#8, 0xEE#8] = .ok (.ret, []) ∧
  decode [0x2F#8, 0x0E#8] = .ok (.call 0xF0E#12, []) ∧
  decode [0x6A#8, 0x3C#8] = .ok (.ldVx 0xA#4 0x3C#8, []) ∧
  decode [0xA2#8, 0x00#8] = .ok (.ldI 0x200#12, []) ∧
  decode [0xD1#8, 0x2A#8] = .ok (.drw 0x1#4 0x2#4 0xA#4, []) ∧
  decode [0x01#8, 0xE0#8] = .error (.unimplementedOpcode 0x01E0#16) ∧
  decode [0x12#8, 0x00#8] = .error (.unimplementedOpcode 0x1200#16)

/-! ### Memory (20_memory) -/

/-- R53: an address is in range iff it is at most `0xFFF`; out of range it fails with `AddressOutOfRange` and is never
reduced. -/
def Obligations.ByteAccessIsBoundsChecked : Prop :=
  ∀ (s : State) (a : Nat) (b : Byte),
    (a ≤ 0x0FFF → (∃ c, readByte s a = .ok c) ∧ ∃ t, writeByte s a b = .ok t) ∧
    (0x0FFF < a → readByte s a = .error (.addressOutOfRange a) ∧ writeByte s a b = .error (.addressOutOfRange a))

/-- R60: a read returns the latest write to that byte; a write leaves every other byte, and everything that is not
memory, as it was. -/
def Obligations.ReadReturnsLatestWrite : Prop :=
  ∀ (s : State) (a : Nat) (b : Byte), a ≤ 0x0FFF →
    ∃ t, writeByte s a b = .ok t ∧ readByte t a = .ok b ∧ (∀ c, c ≠ a → readByte t c = readByte s c) ∧
      t.v = s.v ∧ t.ireg = s.ireg ∧ t.pc = s.pc ∧ KeepsStack s t ∧ KeepsScreen s t ∧ KeepsControl s t ∧
      KeepsHostSide s t

/-- Two canonical memories that read alike everywhere are equal: memory is compared by what it holds (R50). Rests on
the model's log entry 10 (the form of memory, DESIGN CHOICE). -/
def Obligations.CanonicalMemoriesAreEqualWhenTheyReadAlike : Prop :=
  ∀ (p : Params) (m n : Memory), Memory.wf p m → Memory.wf p n →
    (∀ a, Memory.get p m a = Memory.get p n a) → m = n

/-! ### The stack (R26) -/

/-- R26: `Push` then `Pop` gives the value back and restores the depth, every entry below untouched and the popped one
in place (R27); `Push` fails exactly at capacity and `Pop` exactly when empty. Rests on the spec's decision (log entry
1) D26 (popped entries stay). -/
def Obligations.StackIsLastInFirstOut : Prop :=
  (∀ (s t : State) (a : Word), push s a = .ok t →
    t.sp.val = s.sp.val + 1 ∧ (∀ k : Fin 16, k.val < s.sp.val → t.stack[k] = s.stack[k]) ∧
    ∃ u, pop t = .ok (a, u) ∧ u.sp = s.sp ∧ u.stack = t.stack) ∧
  (∀ (s : State) (a : Word), s.sp.val ≤ s.params.stackCap.val →
    (push s a = .error .stackOverflow ↔ s.sp.val = s.params.stackCap.val)) ∧
  (∀ s : State, pop s = .error .stackUnderflow ↔ s.sp.val = 0)

/-! ### The six instructions (41 to 44) -/

/-- R100: `CLS` turns every pixel off, sets `DIRTY`, and cannot fail. Rests on the spec's decision (log entry 1) D15
(`DIRTY`, who sets and who reads it). -/
def Obligations.ClsClearsScreen : Prop :=
  dispatch (decodeFields 0x00E0#16) = some .cls ∧
  ∀ s : State, ∃ t, exec .cls s = .next t ∧
    (∀ px py, t.fb.pixel px py = false) ∧ t.dirty = true ∧
    t.v = s.v ∧ t.ireg = s.ireg ∧ t.pc = s.pc ∧ KeepsStack s t ∧ KeepsControl s t ∧ KeepsHostSide s t ∧
    KeepsMemory s t

/-- R101: `RET` pops into `PC`, the value used as it is; empty, it takes `StackUnderflow` and writes neither `PC` nor
`SP`, the fault entry being R155. Rests on the spec's decisions (log entry 1) D9 (faults are precise), D12 (the
record, the first one latched), D13 (a fault latches and halts), D26 (popped entries stay), and on the model's log
entry 8 (the record of a fault in execution names `PC - 2` and the instruction's word, DEDUCED). -/
def Obligations.RetPopsIntoPc : Prop :=
  dispatch (decodeFields 0x00EE#16) = some .ret ∧
  (∀ s : State, s.sp.val ≠ 0 → ∃ t, exec .ret s = .next t ∧
    (∃ k : Fin 16, k.val + 1 = s.sp.val ∧ t.sp.val = k.val ∧ t.pc = s.stack[k]) ∧
    t.stack = s.stack ∧ t.v = s.v ∧ t.ireg = s.ireg ∧ KeepsScreen s t ∧ KeepsControl s t ∧ KeepsHostSide s t ∧
    KeepsMemory s t) ∧
  (∀ s : State, s.sp.val = 0 → ∃ t, exec .ret s = .next t ∧
    FaultedWith s t { kind := .stackUnderflow, pc := some (s.pc - 2#16), opcode := some 0x00EE#16, addr := none })

/-- R110: `CALL` pushes the advanced `PC` and goes to `NNN`; at capacity it takes `StackOverflow` and writes nothing
of its own, the fault entry being R155. The two readings of full agree in every state of the invariant. Rests on the
spec's decisions (log entry 1) D9 (faults are precise), D12 (the record, the first one latched), D13 (a fault latches
and halts), and on the model's log entries 8 (the record of a fault in execution names `PC - 2` and the instruction's
word, DEDUCED), 9 (full is `STACK_CAP <= SP`, where the rules say `SP = STACK_CAP`, DESIGN CHOICE). -/
def Obligations.CallPushesPcAndJumps : Prop :=
  (∀ op : Word, topNibble op = 0x2#4 → dispatch (decodeFields op) = some (.call (op.extractLsb' 0 12))) ∧
  (∀ (nnn : Addr12) (s : State), s.sp.val < s.params.stackCap.val → ∃ t, exec (.call nnn) s = .next t ∧
    (∃ k : Fin 16, k.val = s.sp.val ∧ t.sp.val = k.val + 1 ∧ t.stack[k] = s.pc ∧
      ∀ j : Fin 16, j ≠ k → t.stack[j] = s.stack[j]) ∧
    t.pc.toNat = nnn.toNat ∧
    t.v = s.v ∧ t.ireg = s.ireg ∧ KeepsScreen s t ∧ KeepsControl s t ∧ KeepsHostSide s t ∧ KeepsMemory s t) ∧
  (∀ (nnn : Addr12) (s : State), s.params.stackCap.val ≤ s.sp.val → ∃ t, exec (.call nnn) s = .next t ∧
    FaultedWith s t
      { kind := .stackOverflow, pc := some (s.pc - 2#16), opcode := some (encode (.call nnn)), addr := none })

/-- R120: `LD Vx, byte` writes `V[X]` alone, `VF` like any other register, and cannot fail. -/
def Obligations.LdVxWritesOneRegister : Prop :=
  (∀ op : Word, topNibble op = 0x6#4 →
    dispatch (decodeFields op) = some (.ldVx (op.extractLsb' 8 4) (op.extractLsb' 0 8))) ∧
  ∀ (x : Nibble) (nn : Byte) (s : State), ∃ t, exec (.ldVx x nn) s = .next t ∧
    (∀ k : Fin 16, t.getV k = if k.val = x.toNat then nn else s.getV k) ∧
    t.ireg = s.ireg ∧ t.pc = s.pc ∧ KeepsStack s t ∧ KeepsScreen s t ∧ KeepsControl s t ∧ KeepsHostSide s t ∧
    KeepsMemory s t

/-- R121: `LD I, addr` writes `I` alone, zero-extended, and cannot fail. -/
def Obligations.LdIWritesIndex : Prop :=
  (∀ op : Word, topNibble op = 0xA#4 → dispatch (decodeFields op) = some (.ldI (op.extractLsb' 0 12))) ∧
  ∀ (nnn : Addr12) (s : State), ∃ t, exec (.ldI nnn) s = .next t ∧
    t.ireg.toNat = nnn.toNat ∧
    t.v = s.v ∧ t.pc = s.pc ∧ KeepsStack s t ∧ KeepsScreen s t ∧ KeepsControl s t ∧ KeepsHostSide s t ∧
    KeepsMemory s t

/-- R130: the loops of `DRW` compute the closed form: a pixel changes iff a drawn 1-bit covers it, `VF` is 1 iff such
a pixel was on before, and else 0. `sprite r` is the byte `MemRead` gives at `I + r` for each row that is not clipped.
Rests on the spec's decisions (log entry 1) D9 (faults are precise), D10 (bottom-clipped rows are not read), D11
(coordinates are read before `VF` is cleared; general knowledge, PRESUMED), D15 (`DIRTY`, who sets and who reads it),
D23 (`I + r` is not truncated). -/
def Obligations.DrwMatchesClosedForm : Prop :=
  ∀ (x y n : Nibble) (s : State) (x0 y0 rows : Nat) (sprite : Nat → Byte),
    x0 = (s.getV (regIndex x)).toNat % 64 → y0 = (s.getV (regIndex y)).toNat % 32 →
    rows = min n.toNat (32 - y0) →
    (∀ r < rows, readByte s (s.ireg.toNat + r) = .ok (sprite r)) →
    ∃ t, exec (.drw x y n) s = .next t ∧
      (∀ (px : Fin 64) (py : Fin 32),
        t.fb.pixel px py = (s.fb.pixel px py ^^ SpriteCovers sprite rows x0 y0 px.val py.val)) ∧
      ((t.getV 15 = 0x01#8 ∧ ∃ (px : Fin 64) (py : Fin 32),
          SpriteCovers sprite rows x0 y0 px.val py.val = true ∧ s.fb.pixel px py = true) ∨
        (t.getV 15 = 0x00#8 ∧ ∀ (px : Fin 64) (py : Fin 32),
          SpriteCovers sprite rows x0 y0 px.val py.val = true → s.fb.pixel px py = false)) ∧
      t.dirty = true ∧
      (∀ k : Fin 16, k ≠ 15 → t.getV k = s.getV k) ∧
      t.ireg = s.ireg ∧ t.pc = s.pc ∧ KeepsStack s t ∧ KeepsControl s t ∧ KeepsHostSide s t ∧ KeepsMemory s t

/-- R130, R132: `DRW` takes `AddressOutOfRange(I + r)` for the first processed row whose byte does not exist; nothing
of the instruction is written then (R135), and the fault entry is R155. Rests on the spec's decisions (log entry 1) D9
(faults are precise), D10 (bottom-clipped rows are not read), D11 (coordinates are read before `VF` is cleared;
general knowledge, PRESUMED), D12 (the record, the first one latched), D13 (a fault latches and halts), D23 (`I + r`
is not truncated), and on the model's log entry 8 (the record of a fault in execution names `PC - 2` and the
instruction's word, DEDUCED). -/
def Obligations.DrwFaultsOnFirstMissingRow : Prop :=
  ∀ (x y n : Nibble) (s : State) (r : Nat),
    r < min n.toNat (32 - (s.getV (regIndex y)).toNat % 32) →
    0x0FFF < s.ireg.toNat + r → (∀ q < r, s.ireg.toNat + q ≤ 0x0FFF) →
    ∃ t, exec (.drw x y n) s = .next t ∧
      FaultedWith s t { kind := .addressOutOfRange, pc := some (s.pc - 2#16), opcode := some (encode (.drw x y n)),
                        addr := some (s.ireg.toNat + r) }

/-- R136 (a): `DRW` with `N = 0` reads nothing, changes no pixel, clears `VF`, sets `DIRTY` and cannot fault, whatever
`I` is. Rests on the spec's decision (log entry 1) D15 (`DIRTY`, who sets and who reads it). -/
def Obligations.DrwOfZeroRowsOnlyClearsVf : Prop :=
  ∀ (x y : Nibble) (s : State), ∃ t, exec (.drw x y 0x0#4) s = .next t ∧
    t.fb = s.fb ∧ t.getV 15 = 0x00#8 ∧ t.dirty = true ∧ (∀ k : Fin 16, k ≠ 15 → t.getV k = s.getV k) ∧
    t.ireg = s.ireg ∧ t.pc = s.pc ∧ KeepsStack s t ∧ KeepsControl s t ∧ KeepsHostSide s t ∧ KeepsMemory s t

/-- R136 (h): the same sprite drawn twice at the same position restores the framebuffer; where the first draw faults,
it changed no pixel (R135). The premises say that the first draw left the start position as it was, which is so
whenever neither operand is `VF`. Rests on the spec's decisions (log entry 1) D9 (faults are precise), D11
(coordinates are read before `VF` is cleared; general knowledge, PRESUMED). -/
def Obligations.DrwTwiceRestoresScreen : Prop :=
  ∀ (x y n : Nibble) (s t : State), exec (.drw x y n) s = .next t →
    (t.getV (regIndex x)).toNat % 64 = (s.getV (regIndex x)).toNat % 64 →
    (t.getV (regIndex y)).toNat % 32 = (s.getV (regIndex y)).toNat % 32 →
    ∃ u, exec (.drw x y n) t = .next u ∧ u.fb = s.fb

/-- A `CALL` followed at once by a `RET` leaves `PC` at the address after the `CALL` and the depth as it was, over two
steps of the machine (R101, R110). The `RET` stands in memory high half first (R55). Rests on the spec's decisions
(log entry 1) D1 (the first byte is the high half; general knowledge, PRESUMED), D7 (no alignment check), and on the
model's log entry 6 (the schedule of turns, DESIGN CHOICE). -/
def Obligations.CallThenReturnComesBack : Prop :=
  ∀ (s : State) (nnn : Addr12) (b0 b1 : Byte),
    s.run = .running → s.schedule = [] → s.sp.val < s.params.stackCap.val →
    readByte s s.pc.toNat = .ok b0 → readByte s (s.pc.toNat + 1) = .ok b1 → decode [b0, b1] = .ok (.call nnn, []) →
    readByte s nnn.toNat = .ok 0x00#8 → readByte s (nnn.toNat + 1) = .ok 0xEE#8 →
    ∃ t u, step s = .next t ∧ step t = .next u ∧ u.pc = s.pc + 2#16 ∧ u.sp = s.sp ∧ u.run = .running ∧
      u.v = s.v ∧ u.ireg = s.ireg ∧ u.fb = s.fb ∧ KeepsMemory s u

/-! ### The Executor (R94) and faults (60_exceptions) -/

/-- R94: the Executor completes or fails with one fault, and never touches memory, the timers, the keypad, or anything
else of the host's; it changes `RUN` and `FAULT` only by failing. What a failing instruction does is R155. Rests on
the spec's decisions (log entry 1) D9 (faults are precise), D12 (the record, the first one latched), D13 (a fault
latches and halts). -/
def Obligations.ExecutorConfinesItsEffects : Prop :=
  ∀ (i : Instr) (s : State), ∃ t, exec i s = .next t ∧ t.mem = s.mem ∧ KeepsHostSide s t ∧
    (KeepsControl s t ∨ ∃ f, FaultedWith s t f)

/-- Which instruction may write which state, over all instructions (R20 to R24, R26, R27, R29, R30; the table of
10_state). Rests on the spec's decisions (log entry 1) D15 (`DIRTY`, who sets and who reads it), D26 (popped entries
stay). -/
def Obligations.OnlyNamedInstructionsWriteEachRegister : Prop :=
  ∀ (i : Instr) (s t : State), exec i s = .next t →
    (t.ireg ≠ s.ireg → ∃ nnn, i = .ldI nnn) ∧
    (t.pc ≠ s.pc → i = .ret ∨ ∃ nnn, i = .call nnn) ∧
    (t.sp ≠ s.sp → i = .ret ∨ ∃ nnn, i = .call nnn) ∧
    (t.stack ≠ s.stack → ∃ nnn, i = .call nnn) ∧
    (t.fb ≠ s.fb → i = .cls ∨ ∃ x y n, i = .drw x y n) ∧
    (t.dirty ≠ s.dirty → i = .cls ∨ ∃ x y n, i = .drw x y n) ∧
    (∀ k : Fin 16, t.getV k ≠ s.getV k →
      (∃ x nn, i = .ldVx x nn ∧ x.toNat = k.val) ∨ (k = 15 ∧ ∃ x y n, i = .drw x y n))

/-- Taking a fault: the first record is latched, `RUN <- Halted`, nothing else changes (R155); the codes are those of
R150. Rests on the spec's decisions (log entry 1) D9 (faults are precise), D12 (the record, the first one latched),
D13 (a fault latches and halts). -/
def Obligations.FaultEntryLatchesAndHalts : Prop :=
  ∀ (s : State) (r : Raise) (pc op : Option Word),
    FaultedWith s (takeFault s r pc op) { kind := r.kind, pc := pc, opcode := op, addr := r.addr } ∧
    (s.fault = none → (takeFault s r pc op).faultCode = r.kind.code)

/-- Faults are precise: an instruction that faults changes nothing but `RUN` and `FAULT`, and its record names the
fetch address and the instruction's own opcode (R155, R33). Rests on the spec's decisions (log entry 1) D9 (faults are
precise), D12 (the record, the first one latched), D13 (a fault latches and halts), and on the model's log entry 8
(the record of a fault in execution names `PC - 2` and the instruction's word, DEDUCED). -/
def Obligations.FaultsInExecutionArePrecise : Prop :=
  ∀ (i : Instr) (s t : State), exec i s = .next t → s.run ≠ .halted → t.run = .halted →
    ∃ f, FaultedWith s t f ∧ f.pc = some (s.pc - 2#16) ∧ f.opcode = some (encode i)

/-- Each instruction has at most one fault of its own, raised exactly when its rule says (R150, R152, R153, R156):
overflow by `CALL` at capacity, underflow by `RET` when empty, an address by `DRW` on a missing row that is not
clipped (R132), and nothing else; the fault halts (R155). The two readings of full agree in every state of the
invariant. Rests on the spec's decisions (log entry 1) D10 (bottom-clipped rows are not read), D11 (coordinates are
read before `VF` is cleared; general knowledge, PRESUMED), D12 (the record, the first one latched), D13 (a fault
latches and halts), D23 (`I + r` is not truncated), and on the model's log entry 9 (full is `STACK_CAP <= SP`, where
the rules say `SP = STACK_CAP`, DESIGN CHOICE). -/
def Obligations.EachFaultHasOneCause : Prop :=
  ∀ (i : Instr) (s t : State), exec i s = .next t → s.run = .running →
    (t.run = .halted ↔
      (∃ nnn, i = .call nnn ∧ s.params.stackCap.val ≤ s.sp.val) ∨
      (i = .ret ∧ s.sp.val = 0) ∨
      (∃ x y n, i = .drw x y n ∧
        ∃ r < min n.toNat (32 - (s.getV (regIndex y)).toNat % 32), 0x0FFF < s.ireg.toNat + r)) ∧
    (∀ f, s.fault = none → t.fault = some f →
      (∃ nnn, i = .call nnn ∧ f.kind = .stackOverflow ∧ f.addr = none) ∨
      (i = .ret ∧ f.kind = .stackUnderflow ∧ f.addr = none) ∨
      (∃ x y n a, i = .drw x y n ∧ f.kind = .addressOutOfRange ∧ f.addr = some a ∧ 0x0FFF < a))

/-! ### The cycle (40_cycle) -/

/-- When the bytes at `PC` decode to `i`, the step is `exec i` on the state with `PC` advanced by 2 and the trace
sent, whether the schedule has turns left or not (R90, R92, R170); a running core's turn is one cycle; and the opcode
has the byte at `PC` as its high half (R55). Rests on the spec's decisions (log entry 1) D1 (the first byte is the
high half; general knowledge, PRESUMED), D7 (no alignment check), D22 (`PC` modulo 2^16), D31 (the trace), and on the
model's log entries 6 (the schedule of turns, DESIGN CHOICE), 7 (the log of outputs, DESIGN CHOICE). -/
def Obligations.StepRunsTheDecodedInstruction : Prop :=
  (∀ s : State, s.run = .running →
    (s.schedule = [] → step s = cycle s) ∧
    (∀ rest, s.schedule = .core :: rest → step s = cycle (s.setSchedule rest))) ∧
  (∀ (s : State) (i : Instr) (b0 b1 : Byte), s.run = .running →
    readByte s s.pc.toNat = .ok b0 → readByte s (s.pc.toNat + 1) = .ok b1 → decode [b0, b1] = .ok (i, []) →
    (s.schedule = [] → step s = exec i (fetched s (opcodeOf b0 b1))) ∧
    (∀ rest, s.schedule = .core :: rest → step s = exec i (fetched (s.setSchedule rest) (opcodeOf b0 b1)))) ∧
  (∀ (s : State) (op : Word),
    fetched s op = { s with pc := s.pc + 2#16, out := .trace s.pc (decodeFields op) :: s.out }) ∧
  (∀ b0 b1 : Byte, (opcodeOf b0 b1).toNat = b0.toNat * 256 + b1.toNat)

/-- R92: after a successful fetch the advance is unconditional; the Executor sees the advanced `PC`, and a cycle that
faults in dispatch or in execute leaves `PC` at the opcode's address plus 2. The opcode has the byte at `PC` as its
high half (R55). Rests on the spec's decisions (log entry 1) D1 (the first byte is the high half; general knowledge,
PRESUMED), D7 (no alignment check), D13 (a fault latches and halts), D22 (`PC` modulo 2^16). -/
def Obligations.AdvanceIsUnconditional : Prop :=
  ∀ (s t : State) (b0 b1 : Byte), readByte s s.pc.toNat = .ok b0 → readByte s (s.pc.toNat + 1) = .ok b1 →
    cycle s = .next t → s.run = .running →
    (t.run = .halted → t.pc = s.pc + 2#16) ∧
    (t.pc ≠ s.pc + 2#16 → opcodeOf b0 b1 = 0x00EE#16 ∨ topNibble (opcodeOf b0 b1) = 0x2#4) ∧
    (∀ i, dispatch (decodeFields (opcodeOf b0 b1)) = some i →
      ∃ u, cycle s = exec i u ∧ u.pc = s.pc + 2#16 ∧ u.v = s.v ∧ u.ireg = s.ireg ∧ KeepsStack s u ∧
        KeepsScreen s u ∧ KeepsControl s u ∧ u.mem = s.mem)

/-- R140: an opcode that no row of the map selects takes `UnimplementedOpcode`, carrying the opcode, with `PC`
advanced and nothing else of the machine changed; the fault entry is R155, and the opcode has the byte at `PC` as its
high half (R55). Rests on the spec's decisions (log entry 1) D1 (the first byte is the high half; general knowledge,
PRESUMED), D7 (no alignment check), D8 (`CLS` and `RET` match all 16 bits), D9 (faults are precise), D12 (the record,
the first one latched), D13 (a fault latches and halts), D22 (`PC` modulo 2^16). -/
def Obligations.UnrecognizedOpcodeFaults : Prop :=
  ∀ (s : State) (b0 b1 : Byte),
    readByte s s.pc.toNat = .ok b0 → readByte s (s.pc.toNat + 1) = .ok b1 →
    opcodeTable.find? (fun r => r.selects (opcodeOf b0 b1)) = none →
    ∃ t, cycle s = .next t ∧ t.pc = s.pc + 2#16 ∧ t.run = .halted ∧
      t.fault = some (s.fault.getD { kind := .unimplementedOpcode, pc := some s.pc, opcode := some (opcodeOf b0 b1),
                                     addr := none }) ∧
      t.v = s.v ∧ t.ireg = s.ireg ∧ KeepsStack s t ∧ KeepsScreen s t ∧ t.mem = s.mem ∧ t.params = s.params ∧
      t.dt = s.dt ∧ t.st = s.st ∧ t.keys = s.keys ∧ t.schedule = s.schedule

/-- R91: a fetch that meets an address above `0xFFF` takes `AddressOutOfRange` with the first such address, leaves
`PC`, has no opcode, and sends no trace (R170); the fault entry is R155. Rests on the spec's decisions (log entry 1)
D9 (faults are precise), D12 (the record, the first one latched), D13 (a fault latches and halts), D30 (the address
reported and `PC` kept by a fetch fault), D31 (the trace), and on the model's log entries 6 (the schedule of turns,
DESIGN CHOICE), 7 (the log of outputs, DESIGN CHOICE). -/
def Obligations.FetchFaultLeavesPc : Prop :=
  ∀ s : State, s.run = .running → s.schedule = [] → 0x0FFF ≤ s.pc.toNat →
    ∃ t, step s = .next t ∧
      FaultedWith s t { kind := .addressOutOfRange, pc := some s.pc, opcode := none,
                        addr := some (if s.pc.toNat = 0x0FFF then 0x1000 else s.pc.toNat) }

/-- In a state of the invariant a fetch can fail only at `0xFFF` and `0x1000`, and always on address `0x1000` (R25,
R91, R152). Rests on the spec's decisions (log entry 1) D7 (no alignment check), D30 (the address reported and `PC`
kept by a fetch fault), and on the model's log entry 10 (the form of memory, DESIGN CHOICE). -/
def Obligations.FetchFaultsOnlyAtTheEndOfMemory : Prop :=
  ∀ (s : State) (r : Raise), s.Inv → fetch s = .error r →
    r = .addressOutOfRange 0x1000 ∧ (s.pc = 0x0FFF#16 ∨ s.pc = 0x1000#16)

/-- The trace is sent once per cycle whose fetch succeeded, and by nothing else of a cycle (R170); the opcode it holds
has the byte at `PC` as its high half (R55). Rests on the spec's decisions (log entry 1) D1 (the first byte is the
high half; general knowledge, PRESUMED), D31 (the trace), and on the model's log entry 7 (the log of outputs, DESIGN
CHOICE). -/
def Obligations.TraceIsSentOncePerFetchedCycle : Prop :=
  ∀ s t : State, cycle s = .next t →
    (∀ b0 b1, fetch s = .ok (b0, b1) → t.out = .trace s.pc (decodeFields (opcodeOf b0 b1)) :: s.out) ∧
    (∀ r, fetch s = .error r → t.out = s.out)

/-- R96, R192: in `Paused` and `Halted` the core's turn changes nothing; a halted core with no host turn left has no
successor, and that is the only way a step stops. Rests on the spec's decision (log entry 1) D24 (transactions are
enabled in every run state), and on the model's log entries 4 (the stop of a halted core, DEDUCED), 5 (turns without a
cycle, DESIGN CHOICE), 6 (the schedule of turns, DESIGN CHOICE). -/
def Obligations.NoCycleUnlessRunning : Prop :=
  (∀ s : State, s.run = .paused → s.schedule = [] → step s = .next s) ∧
  (∀ (s : State) (rest : List Turn), s.run ≠ .running → s.schedule = .core :: rest →
    step s = .next (s.setSchedule rest)) ∧
  (∀ s : State, s.run = .halted → s.schedule = [] → step s = .fault (.halted s.fault)) ∧
  (∀ s : State, ¬(s.run = .halted ∧ s.schedule = []) → ∃ t, step s = .next t)

/-- R97: what the host writes (`DT`, `ST`, `KEYS`, `DIRTY`, its schedule and log) cannot affect a cycle: two states
that agree on the rest go to states that agree on the rest. Rests on the spec's decision (log entry 1) D15 (`DIRTY`,
who sets and who reads it), and on the model's log entries 6 (the schedule of turns, DESIGN CHOICE), 7 (the log of
outputs, DESIGN CHOICE). -/
def Obligations.HostStateCannotAffectACycle : Prop :=
  ∀ s t s' : State, CoreAgrees s t → cycle s = .next s' → ∃ t', cycle t = .next t' ∧ CoreAgrees s' t'

/-! ### The host (60_exceptions section 4) -/

/-- A host turn of the schedule is one transaction, in every run state (R95, R160). Rests on the spec's decisions (log
entry 1) D20 (the host acts between cycles only), D24 (transactions are enabled in every run state), and on the
model's log entry 6 (the schedule of turns, DESIGN CHOICE). -/
def Obligations.HostTurnIsOneTransaction : Prop :=
  ∀ (s : State) (t : Transaction) (rest : List Turn), s.schedule = .host t :: rest →
    step s = .next (transact (s.setSchedule rest) t)

/-- No transaction but boot writes the registers, the stack, the framebuffer or memory (R180, R160), none latches a
fault, only pause and halt write `RUN`, and only a clear writes `DIRTY`. Rests on the spec's decisions (log entry 1)
D15 (`DIRTY`, who sets and who reads it), D17 (the host has no memory port), and on the model's log entry 6 (the
schedule of turns, DESIGN CHOICE). -/
def Obligations.HostTransactionsKeepTheCore : Prop :=
  ∀ (s : State) (t : Transaction), (∀ rom, t ≠ .boot rom) →
    KeepsCore s (transact s t) ∧ (transact s t).fault = s.fault ∧
    (t ≠ .pauseToggle → t ≠ .haltRequest → (transact s t).run = s.run) ∧
    (t ≠ .dirtyClear → (transact s t).dirty = s.dirty) ∧
    (transact s t).schedule = s.schedule

/-- A tick takes each timer down by one, and a timer at 0 stays at 0 (R161). Rests on the spec's decision (log entry
1) D14 (a timer stays at 0; general knowledge, PRESUMED). -/
def Obligations.TimerTickCountsDownToZero : Prop :=
  ∀ s : State, (transact s .timerTick).dt.toNat = s.dt.toNat - 1 ∧ (transact s .timerTick).st.toNat = s.st.toNat - 1 ∧
    (transact s .timerTick).keys = s.keys ∧ (transact s .timerTick).out = s.out

/-- R162: `TimerSet` sets the timer it names, and no instruction sets a timer. -/
def Obligations.TimerSetSetsTheNamedTimer : Prop :=
  (∀ (s : State) (b : Byte),
    transact s (.timerSet .delay b) = { s with dt := b } ∧ transact s (.timerSet .sound b) = { s with st := b }) ∧
  (∀ (i : Instr) (s t : State), exec i s = .next t → t.dt = s.dt ∧ t.st = s.st)

/-- R163: `TimerGet` answers the timer and changes nothing but the log of answers; `sound_active` is `ST != 0`. Rests
on the model's log entry 7 (the log of outputs, DESIGN CHOICE). -/
def Obligations.TimerGetAnswersTheTimer : Prop :=
  ∀ s : State, transact s (.timerGet .delay) = { s with out := .timer .delay s.dt :: s.out } ∧
    transact s (.timerGet .sound) = { s with out := .timer .sound s.st :: s.out } ∧
    (s.soundActive = true ↔ s.st ≠ 0x00#8)

/-- R164: `KeysWrite` writes all sixteen flags at once, and no instruction depends on them. -/
def Obligations.KeysWriteCannotAffectExecution : Prop :=
  (∀ (s : State) (k : Vector Bool 16), transact s (.keysWrite k) = { s with keys := k }) ∧
  (∀ (i : Instr) (s t : State) (k : Vector Bool 16), exec i s = .next t →
    exec i (s.setKeys k) = .next (t.setKeys k))

/-- The framebuffer, dirty and status ports: a read answers and changes nothing but the log, a clear clears `DIRTY`
alone (R165, R166, R169). Rests on the spec's decisions (log entry 1) D12 (the record, the first one latched), D15
(`DIRTY`, who sets and who reads it), D27 (true is on), and on the model's log entry 7 (the log of outputs, DESIGN
CHOICE). -/
def Obligations.ScreenAndDirtyPorts : Prop :=
  ∀ s : State, (∀ x y, transact s (.fbRead x y) = { s with out := .pixel (s.fb.pixel x y) :: s.out }) ∧
    transact s .dirtyRead = { s with out := .dirty s.dirty :: s.out } ∧
    transact s .dirtyClear = { s with dirty := false } ∧
    transact s .statusRead = { s with out := .status s.run s.fault :: s.out }

/-- `PauseToggle` moves between `Running` and `Paused` and has no effect in `Halted` (R167). Rests on the spec's
decision (log entry 1) D29 (no toggle in `Halted`). -/
def Obligations.PauseTogglesRunningAndPaused : Prop :=
  ∀ s : State, (s.run = .running → transact s .pauseToggle = { s with run := .paused }) ∧
    (s.run = .paused → transact s .pauseToggle = { s with run := .running }) ∧
    (s.run = .halted → transact s .pauseToggle = s)

/-- R168: a halt request halts from every run state and does not touch `FAULT`; as the next turn of the schedule it
comes before any cycle. Rests on the model's log entry 6 (the schedule of turns, DESIGN CHOICE). -/
def Obligations.HaltRequestHaltsWithoutFault : Prop :=
  (∀ s : State, transact s .haltRequest = { s with run := .halted }) ∧
  (∀ (s : State) (rest : List Turn), s.schedule = .host .haltRequest :: rest →
    ∃ t, step s = .next t ∧ t.run = .halted ∧ t.fault = s.fault)

/-- R157: `Halted` is left by a boot alone, no cycle runs in it, and its fault record is never overwritten. Rests on
the spec's decisions (log entry 1) D12 (the record, the first one latched), D24 (transactions are enabled in every run
state), D29 (no toggle in `Halted`), and on the model's log entries 5 (turns without a cycle, DESIGN CHOICE), 6 (the
schedule of turns, DESIGN CHOICE). -/
def Obligations.HaltedIsTerminalButForBoot : Prop :=
  ∀ s t : State, s.run = .halted → step s = .next t → (∀ rom rest, s.schedule ≠ .host (.boot rom) :: rest) →
    t.run = .halted ∧ t.fault = s.fault ∧ KeepsCore s t

/-! ### Reset and boot (70_reset_and_hazards) -/

/-- The reset state, field by field (R36, R56, R5). Rests on the spec's decisions (log entry 1) D2 (zero reset values;
general knowledge, PRESUMED), D3 (`PC` at `0x200`, memory filled with `0x00`; general knowledge, PRESUMED), D4
(`STACK_CAP` 12 by default), D5 (`FONT_BASE` 0 by default), D6 (the font bytes; general knowledge, PRESUMED), D15
(`DIRTY`, who sets and who reads it), D19 (`Running` after boot), and on the model's log entries 2 (the parameters are
held in the state, DESIGN CHOICE), 3 (reset is a boot with an empty ROM, DEDUCED), 6 (the schedule of turns, DESIGN
CHOICE), 7 (the log of outputs, DESIGN CHOICE). -/
def Obligations.ResetStateIsAsTheSpecSays : Prop :=
  (∀ k, State.reset.getV k = 0x00#8) ∧ State.reset.ireg = 0x0000#16 ∧ State.reset.pc = 0x0200#16 ∧
  State.reset.sp = 0 ∧ (∀ k : Fin 16, State.reset.stack[k] = 0x0000#16) ∧
  State.reset.dt = 0x00#8 ∧ State.reset.st = 0x00#8 ∧ (∀ k : Fin 16, State.reset.keys[k] = false) ∧
  (∀ px py, State.reset.fb.pixel px py = false) ∧ State.reset.dirty = false ∧ State.reset.fault = none ∧
  State.reset.run = .running ∧ State.reset.params.stackCap.val = 12 ∧
  (∀ a, 80 ≤ a → a ≤ 0x0FFF → readByte State.reset a = .ok 0x00#8) ∧
  (∀ (d : Nat) (h : d < 80), readByte State.reset d = .ok defaultFontTable[d])

/-- A ROM of at most 3584 bytes boots (R180 to R183): the machine is at reset, the font and the ROM are in place and
every other byte is `0x00`. Rests on the spec's decisions (log entry 1) D2 (zero reset values; general knowledge,
PRESUMED), D3 (`PC` at `0x200`, memory filled with `0x00`; general knowledge, PRESUMED), D15 (`DIRTY`, who sets and
who reads it), D19 (`Running` after boot), D32 (boot is atomic and starts from zero memory), and on the model's log
entries 2 (the parameters are held in the state, DESIGN CHOICE), 6 (the schedule of turns, DESIGN CHOICE), 7 (the log
of outputs, DESIGN CHOICE). -/
def Obligations.BootPlacesFontAndRom : Prop :=
  ∀ (s : State) (rom : List Byte), rom.length ≤ 3584 →
    ∃ t, transact s (.boot rom) = t ∧
      (∀ (j : Nat) (h : j < rom.length), readByte t (0x200 + j) = .ok rom[j]) ∧
      (∀ (j : Nat) (h : j < 80), readByte t (s.params.fontBase.val + j) = .ok s.params.fontTable[j]) ∧
      (∀ a, a ≤ 0x0FFF → (a < 0x200 ∨ 0x200 + rom.length ≤ a) →
        (a < s.params.fontBase.val ∨ s.params.fontBase.val + 80 ≤ a) → readByte t a = .ok 0x00#8) ∧
      { t with mem := [] } = { State.resetWith s.params with schedule := s.schedule, out := s.out }

/-- R151: a boot fails with `ProgramTooLarge` iff the ROM has more than 3584 bytes; the core then ends halted before
any cycle (R183), with the kind alone recorded (R150); no instruction can raise it. A ROM that fits ends `Running`
(R183). Rests on the spec's decisions (log entry 1) D12 (the record, the first one latched), D19 (`Running` after
boot), D25 (a ROM too large halts and is not written). -/
def Obligations.TooLargeProgramHaltsAtBoot : Prop :=
  (∀ (s : State) (rom : List Byte), rom.length ≤ 3584 →
    (transact s (.boot rom)).run = .running ∧ (transact s (.boot rom)).fault = none) ∧
  (∀ (s : State) (rom : List Byte), 3584 < rom.length →
    (transact s (.boot rom)).run = .halted ∧
    (transact s (.boot rom)).fault =
      some { kind := .programTooLarge, pc := none, opcode := none, addr := none }) ∧
  (∀ (i : Instr) (s t : State) (f : FaultRecord), exec i s = .next t → s.fault = none → t.fault = some f →
    f.kind ≠ .programTooLarge)

/-- When the ROM is too large no byte of it is written, and the font is loaded over memory that is otherwise `0x00`
(R182, R183). Rests on the spec's decisions (log entry 1) D3 (`PC` at `0x200`, memory filled with `0x00`; general
knowledge, PRESUMED), D25 (a ROM too large halts and is not written), D32 (boot is atomic and starts from zero
memory), and on the model's log entry 2 (the parameters are held in the state, DESIGN CHOICE). -/
def Obligations.TooLargeProgramWritesNoByte : Prop :=
  ∀ (s : State) (rom : List Byte), 3584 < rom.length →
    (∀ a, 0x200 ≤ a → a ≤ 0x0FFF → readByte (transact s (.boot rom)) a = .ok 0x00#8) ∧
    (∀ (j : Nat) (h : j < 80),
      readByte (transact s (.boot rom)) (s.params.fontBase.val + j) = .ok s.params.fontTable[j])

/-! ### The whole machine -/

/-- The invariant holds at reset, with any parameters (R23, R25, R26, R36). Rests on the spec's decisions (log entry
1) D2 (zero reset values; general knowledge, PRESUMED), D3 (`PC` at `0x200`, memory filled with `0x00`; general
knowledge, PRESUMED), and on the model's log entries 2 (the parameters are held in the state, DESIGN CHOICE), 3 (reset
is a boot with an empty ROM, DEDUCED), 10 (the form of memory, DESIGN CHOICE). -/
def Obligations.InvariantHoldsAtReset : Prop :=
  State.reset.Inv ∧ ∀ p : Params, (State.resetWith p).Inv

/-- Every step keeps the invariant: canonical memory, `I <= 0xFFF`, `PC <= 0x1000`, depth within capacity, return
addresses that a `CALL` can have pushed, and a fault only in `Halted` (R23, R25, R26, R155, R157). Rests on the spec's
decisions (log entry 1) D2 (zero reset values; general knowledge, PRESUMED), D3 (`PC` at `0x200`, memory filled with
`0x00`; general knowledge, PRESUMED), D13 (a fault latches and halts), D22 (`PC` modulo 2^16), D25 (a ROM too large
halts and is not written), D29 (no toggle in `Halted`), D32 (boot is atomic and starts from zero memory), and on the
model's log entries 2 (the parameters are held in the state, DESIGN CHOICE), 6 (the schedule of turns, DESIGN CHOICE),
10 (the form of memory, DESIGN CHOICE). -/
def Obligations.EveryStepKeepsTheInvariant : Prop :=
  ∀ s t : State, s.Inv → step s = .next t → t.Inv

/-- Memory is constant between boots, and the parameters for ever (R58, R35): for every step that is not a boot,
memory is the same data. Rests on the spec's decision (log entry 1) D17 (the host has no memory port), and on the
model's log entries 2 (the parameters are held in the state, DESIGN CHOICE), 6 (the schedule of turns, DESIGN CHOICE).
-/
def Obligations.MemoryIsConstantBetweenBoots : Prop :=
  ∀ s t : State, step s = .next t →
    t.params = s.params ∧ ((∀ rom rest, s.schedule ≠ .host (.boot rom) :: rest) → t.mem = s.mem)

/-- Running into the opcode `0x0000` at `p` is the good end of R192 at `p`. Rests on the spec's decisions (log entry
1) D7 (no alignment check), D12 (the record, the first one latched), D13 (a fault latches and halts), D21 (the good
end), and on the model's log entry 6 (the schedule of turns, DESIGN CHOICE). -/
def Obligations.ZeroOpcodeIsTheGoodEnd : Prop :=
  ∀ (s : State), s.run = .running → s.schedule = [] → s.fault = none →
    readByte s s.pc.toNat = .ok 0x00#8 → readByte s (s.pc.toNat + 1) = .ok 0x00#8 →
    ∃ t, step s = .next t ∧ t.GoodEnd s.pc

/-- Every run terminates (R193): from every running state, with the host silent, finitely many steps reach `Halted`
with a fault latched (R155). The spec marks the rule as its own derivation. Rests on the spec's decisions (log entry
1) D12 (the record, the first one latched), D13 (a fault latches and halts), and on the model's log entry 6 (the
schedule of turns, DESIGN CHOICE). -/
def Obligations.EveryRunTerminates : Prop :=
  ∀ s : State, s.run = .running → s.schedule = [] →
    ∃ (k : Nat) (t : State), Host.Core.run Sys2Proof.core k s = .next t ∧ t.Ended ∧ t.fault ≠ none
end

