-- ==== Sys2Proof/Laws/Config.lean ====
section
/-! SUPPORT. The fixed parameters of R4 as numerals, for omega and simp. -/

namespace Sys2Proof

@[simp] theorem Config.memSize_eq : Config.memSize = 4096 := rfl

@[simp] theorem Config.progBase_eq : Config.progBase = 512 := rfl

@[simp] theorem Config.maxRom_eq : Config.maxRom = 3584 := rfl

theorem Config.fbWidth_eq : Config.fbWidth = 64 := rfl

theorem Config.fbHeight_eq : Config.fbHeight = 32 := rfl

theorem Config.fontLen_eq : Config.fontLen = 80 := rfl

end Sys2Proof
end

