-- ==== Sys2Proof/Laws/Decode.lean ====
section
/-! SUPPORT. What dispatch can answer, said once. -/

namespace Sys2Proof

/-- The opcode selects one of the six rows, or none (R74, R75). -/
theorem dispatch_cases (op : Word) :
    (op = 0x00E0#16 ∧ dispatch (decodeFields op) = some .cls) ∨
    (op = 0x00EE#16 ∧ dispatch (decodeFields op) = some .ret) ∨
    (topNibble op = 0x2#4 ∧ dispatch (decodeFields op) = some (.call (op.extractLsb' 0 12))) ∨
    (topNibble op = 0x6#4 ∧
      dispatch (decodeFields op) = some (.ldVx (op.extractLsb' 8 4) (op.extractLsb' 0 8))) ∨
    (topNibble op = 0xA#4 ∧ dispatch (decodeFields op) = some (.ldI (op.extractLsb' 0 12))) ∨
    (topNibble op = 0xD#4 ∧
      dispatch (decodeFields op) = some (.drw (op.extractLsb' 8 4) (op.extractLsb' 4 4) (op.extractLsb' 0 4))) ∨
    (op ≠ 0x00E0#16 ∧ op ≠ 0x00EE#16 ∧ topNibble op ≠ 0x2#4 ∧ topNibble op ≠ 0x6#4 ∧ topNibble op ≠ 0xA#4 ∧
      topNibble op ≠ 0xD#4 ∧ dispatch (decodeFields op) = none) := by
  have hop : (decodeFields op).op = op := rfl
  by_cases h0 : op = 0x00E0#16
  · exact .inl ⟨h0, by simp only [dispatch, hop, if_pos h0]⟩
  by_cases h1 : op = 0x00EE#16
  · exact .inr (.inl ⟨h1, by simp only [dispatch, hop, if_neg h0, if_pos h1]⟩)
  by_cases h2 : topNibble op = 0x2#4
  · exact .inr (.inr (.inl ⟨h2, by simp only [dispatch, hop, if_neg h0, if_neg h1, if_pos h2]; rfl⟩))
  by_cases h6 : topNibble op = 0x6#4
  · exact .inr (.inr (.inr (.inl ⟨h6, by
      simp only [dispatch, hop, if_neg h0, if_neg h1, if_neg h2, if_pos h6]; rfl⟩)))
  by_cases hA : topNibble op = 0xA#4
  · exact .inr (.inr (.inr (.inr (.inl ⟨hA, by
      simp only [dispatch, hop, if_neg h0, if_neg h1, if_neg h2, if_neg h6, if_pos hA]; rfl⟩))))
  by_cases hD : topNibble op = 0xD#4
  · exact .inr (.inr (.inr (.inr (.inr (.inl ⟨hD, by
      simp only [dispatch, hop, if_neg h0, if_neg h1, if_neg h2, if_neg h6, if_neg hA, if_pos hD]; rfl⟩)))))
  · exact .inr (.inr (.inr (.inr (.inr (.inr ⟨h0, h1, h2, h6, hA, hD, by
      simp only [dispatch, hop, if_neg h0, if_neg h1, if_neg h2, if_neg h6, if_neg hA, if_neg hD]⟩)))))

end Sys2Proof
end

