-- ==== Sys2Proof/Laws/Memory.lean ====
section
/-! SUPPORT. The laws of memory: read after write, and the canonical form kept by every operation. -/

namespace Sys2Proof.Machine

variable (p : Params)

theorem Memory.lookup_insert (m : Memory) (a c : Nat) (b : Byte) :
    Memory.lookup (Memory.insert m a b) c = if c = a then some b else Memory.lookup m c := by
  induction m with
  | nil => simp only [Memory.insert, Memory.lookup, eq_comm]
  | cons d m ih =>
    simp only [Memory.insert]
    split
    · simp only [Memory.lookup, eq_comm]
    · split
      · simp only [Memory.lookup]
        by_cases h : c = a
        · simp [h]
        · rw [if_neg (Ne.symm h), if_neg h, if_neg (by omega)]
      · simp only [Memory.lookup, ih]
        by_cases h : d.1 = c
        · rw [if_pos h, if_neg (by omega), if_pos h]
        · rw [if_neg h, if_neg h]

theorem Memory.lookup_remove (m : Memory) (a c : Nat) :
    Memory.lookup (m.filter (fun d => d.1 != a)) c = if c = a then none else Memory.lookup m c := by
  induction m with
  | nil => simp [Memory.lookup]
  | cons d m ih =>
    by_cases hd : d.1 = a
    · rw [List.filter_cons_of_neg (by simp [hd]), ih]
      simp only [Memory.lookup]
      by_cases hc : c = a
      · simp [hc]
      · rw [if_neg hc, if_neg hc, if_neg (by omega)]
    · rw [List.filter_cons_of_pos (by simp [hd])]
      simp only [Memory.lookup, ih]
      by_cases hc : d.1 = c
      · rw [if_pos hc, if_neg (by omega), if_pos hc]
      · rw [if_neg hc, if_neg hc]

/-- A read after a write: the byte written at that address, and every other address as before (R60). -/
theorem Memory.get_set (m : Memory) (a c : Nat) (b : Byte) :
    Memory.get p (Memory.set p m a b) c = if c = a then b else Memory.get p m c := by
  by_cases hb : b = Memory.unlisted p a
  · simp only [Memory.get, Memory.set, if_pos hb, Memory.lookup_remove]
    by_cases hc : c = a
    · simp [hc, hb]
    · simp [hc]
  · simp only [Memory.get, Memory.set, if_neg hb, Memory.lookup_insert]
    by_cases hc : c = a
    · simp [hc]
    · simp [hc]

/-- With nothing listed, every address reads as the reset contents. -/
theorem Memory.get_nil (a : Nat) : Memory.get p [] a = Memory.unlisted p a := rfl

theorem Memory.wf_nil : Memory.wf p [] := by simp [Memory.wf]

theorem Memory.mem_insert {m : Memory} {a : Nat} {b : Byte} {d : Host.Cell} (h : d ∈ Memory.insert m a b) :
    d = (a, b) ∨ d ∈ m := by
  induction m with
  | nil => simpa [Memory.insert] using h
  | cons c m ih =>
    simp only [Memory.insert] at h
    split at h
    · simpa using h
    · split at h
      · rcases List.mem_cons.1 h with h | h
        · exact .inl h
        · exact .inr (List.mem_cons_of_mem _ h)
      · rcases List.mem_cons.1 h with h | h
        · exact .inr (h ▸ List.mem_cons_self)
        · exact (ih h).imp_right (List.mem_cons_of_mem _)

theorem Memory.pairwise_insert {m : Memory} (hm : m.Pairwise (fun c d => c.1 < d.1)) (a : Nat) (b : Byte) :
    (Memory.insert m a b).Pairwise (fun c d => c.1 < d.1) := by
  induction m with
  | nil => simp [Memory.insert]
  | cons c m ih =>
    obtain ⟨hc, hm'⟩ := List.pairwise_cons.1 hm
    simp only [Memory.insert]
    split
    · rename_i hlt
      refine List.pairwise_cons.2 ⟨fun d hd => ?_, hm⟩
      rcases List.mem_cons.1 hd with rfl | hd
      · exact hlt
      · exact Nat.lt_trans hlt (hc d hd)
    · split
      · rename_i heq
        exact List.pairwise_cons.2 ⟨fun d hd => heq ▸ hc d hd, hm'⟩
      · refine List.pairwise_cons.2 ⟨fun d hd => ?_, ih hm'⟩
        rcases Memory.mem_insert hd with rfl | hd
        · simp only; omega
        · exact hc d hd

/-- A write in range keeps the canonical form. -/
theorem Memory.wf_set {m : Memory} (hm : Memory.wf p m) {a : Nat} (ha : a < Config.memSize) (b : Byte) :
    Memory.wf p (Memory.set p m a b) := by
  unfold Memory.set
  split
  · exact ⟨hm.1.filter _, fun c hc => hm.2 c (List.mem_filter.1 hc).1⟩
  · rename_i hb
    refine ⟨Memory.pairwise_insert hm.1 a b, fun c hc => ?_⟩
    rcases Memory.mem_insert hc with rfl | hc
    · exact ⟨ha, hb⟩
    · exact hm.2 c hc

end Sys2Proof.Machine
end

