-- ==== Sys2Proof/Laws/State.lean ====
section
/-! SUPPORT. One lemma per field per update of State, true by rfl: no later proof unfolds a record update. -/

namespace Sys2Proof.Machine

variable (s : State)

/-! ### `State.setI` -/

@[simp] theorem State.setI_v (a : Word) : (s.setI a).v = s.v := rfl
@[simp] theorem State.setI_ireg (a : Word) : (s.setI a).ireg = a := rfl
@[simp] theorem State.setI_pc (a : Word) : (s.setI a).pc = s.pc := rfl
@[simp] theorem State.setI_sp (a : Word) : (s.setI a).sp = s.sp := rfl
@[simp] theorem State.setI_stack (a : Word) : (s.setI a).stack = s.stack := rfl
@[simp] theorem State.setI_dt (a : Word) : (s.setI a).dt = s.dt := rfl
@[simp] theorem State.setI_st (a : Word) : (s.setI a).st = s.st := rfl
@[simp] theorem State.setI_keys (a : Word) : (s.setI a).keys = s.keys := rfl
@[simp] theorem State.setI_fb (a : Word) : (s.setI a).fb = s.fb := rfl
@[simp] theorem State.setI_mem (a : Word) : (s.setI a).mem = s.mem := rfl
@[simp] theorem State.setI_run (a : Word) : (s.setI a).run = s.run := rfl
@[simp] theorem State.setI_fault (a : Word) : (s.setI a).fault = s.fault := rfl
@[simp] theorem State.setI_dirty (a : Word) : (s.setI a).dirty = s.dirty := rfl
@[simp] theorem State.setI_params (a : Word) : (s.setI a).params = s.params := rfl
@[simp] theorem State.setI_schedule (a : Word) : (s.setI a).schedule = s.schedule := rfl
@[simp] theorem State.setI_out (a : Word) : (s.setI a).out = s.out := rfl

/-! ### `State.setPc` -/

@[simp] theorem State.setPc_v (a : Word) : (s.setPc a).v = s.v := rfl
@[simp] theorem State.setPc_ireg (a : Word) : (s.setPc a).ireg = s.ireg := rfl
@[simp] theorem State.setPc_pc (a : Word) : (s.setPc a).pc = a := rfl
@[simp] theorem State.setPc_sp (a : Word) : (s.setPc a).sp = s.sp := rfl
@[simp] theorem State.setPc_stack (a : Word) : (s.setPc a).stack = s.stack := rfl
@[simp] theorem State.setPc_dt (a : Word) : (s.setPc a).dt = s.dt := rfl
@[simp] theorem State.setPc_st (a : Word) : (s.setPc a).st = s.st := rfl
@[simp] theorem State.setPc_keys (a : Word) : (s.setPc a).keys = s.keys := rfl
@[simp] theorem State.setPc_fb (a : Word) : (s.setPc a).fb = s.fb := rfl
@[simp] theorem State.setPc_mem (a : Word) : (s.setPc a).mem = s.mem := rfl
@[simp] theorem State.setPc_run (a : Word) : (s.setPc a).run = s.run := rfl
@[simp] theorem State.setPc_fault (a : Word) : (s.setPc a).fault = s.fault := rfl
@[simp] theorem State.setPc_dirty (a : Word) : (s.setPc a).dirty = s.dirty := rfl
@[simp] theorem State.setPc_params (a : Word) : (s.setPc a).params = s.params := rfl
@[simp] theorem State.setPc_schedule (a : Word) : (s.setPc a).schedule = s.schedule := rfl
@[simp] theorem State.setPc_out (a : Word) : (s.setPc a).out = s.out := rfl

/-! ### `State.setV` -/

@[simp] theorem State.setV_v (k : Fin 16) (b : Byte) : (s.setV k b).v = s.v.set k b := rfl
@[simp] theorem State.setV_ireg (k : Fin 16) (b : Byte) : (s.setV k b).ireg = s.ireg := rfl
@[simp] theorem State.setV_pc (k : Fin 16) (b : Byte) : (s.setV k b).pc = s.pc := rfl
@[simp] theorem State.setV_sp (k : Fin 16) (b : Byte) : (s.setV k b).sp = s.sp := rfl
@[simp] theorem State.setV_stack (k : Fin 16) (b : Byte) : (s.setV k b).stack = s.stack := rfl
@[simp] theorem State.setV_dt (k : Fin 16) (b : Byte) : (s.setV k b).dt = s.dt := rfl
@[simp] theorem State.setV_st (k : Fin 16) (b : Byte) : (s.setV k b).st = s.st := rfl
@[simp] theorem State.setV_keys (k : Fin 16) (b : Byte) : (s.setV k b).keys = s.keys := rfl
@[simp] theorem State.setV_fb (k : Fin 16) (b : Byte) : (s.setV k b).fb = s.fb := rfl
@[simp] theorem State.setV_mem (k : Fin 16) (b : Byte) : (s.setV k b).mem = s.mem := rfl
@[simp] theorem State.setV_run (k : Fin 16) (b : Byte) : (s.setV k b).run = s.run := rfl
@[simp] theorem State.setV_fault (k : Fin 16) (b : Byte) : (s.setV k b).fault = s.fault := rfl
@[simp] theorem State.setV_dirty (k : Fin 16) (b : Byte) : (s.setV k b).dirty = s.dirty := rfl
@[simp] theorem State.setV_params (k : Fin 16) (b : Byte) : (s.setV k b).params = s.params := rfl
@[simp] theorem State.setV_schedule (k : Fin 16) (b : Byte) : (s.setV k b).schedule = s.schedule := rfl
@[simp] theorem State.setV_out (k : Fin 16) (b : Byte) : (s.setV k b).out = s.out := rfl

/-! ### `State.setStack` -/

@[simp] theorem State.setStack_v (k : Fin 16) (a : Word) (d : Fin 17) : (s.setStack k a d).v = s.v := rfl
@[simp] theorem State.setStack_ireg (k : Fin 16) (a : Word) (d : Fin 17) : (s.setStack k a d).ireg = s.ireg := rfl
@[simp] theorem State.setStack_pc (k : Fin 16) (a : Word) (d : Fin 17) : (s.setStack k a d).pc = s.pc := rfl
@[simp] theorem State.setStack_sp (k : Fin 16) (a : Word) (d : Fin 17) : (s.setStack k a d).sp = d := rfl
@[simp] theorem State.setStack_stack (k : Fin 16) (a : Word) (d : Fin 17) : (s.setStack k a d).stack = s.stack.set k a := rfl
@[simp] theorem State.setStack_dt (k : Fin 16) (a : Word) (d : Fin 17) : (s.setStack k a d).dt = s.dt := rfl
@[simp] theorem State.setStack_st (k : Fin 16) (a : Word) (d : Fin 17) : (s.setStack k a d).st = s.st := rfl
@[simp] theorem State.setStack_keys (k : Fin 16) (a : Word) (d : Fin 17) : (s.setStack k a d).keys = s.keys := rfl
@[simp] theorem State.setStack_fb (k : Fin 16) (a : Word) (d : Fin 17) : (s.setStack k a d).fb = s.fb := rfl
@[simp] theorem State.setStack_mem (k : Fin 16) (a : Word) (d : Fin 17) : (s.setStack k a d).mem = s.mem := rfl
@[simp] theorem State.setStack_run (k : Fin 16) (a : Word) (d : Fin 17) : (s.setStack k a d).run = s.run := rfl
@[simp] theorem State.setStack_fault (k : Fin 16) (a : Word) (d : Fin 17) : (s.setStack k a d).fault = s.fault := rfl
@[simp] theorem State.setStack_dirty (k : Fin 16) (a : Word) (d : Fin 17) : (s.setStack k a d).dirty = s.dirty := rfl
@[simp] theorem State.setStack_params (k : Fin 16) (a : Word) (d : Fin 17) : (s.setStack k a d).params = s.params := rfl
@[simp] theorem State.setStack_schedule (k : Fin 16) (a : Word) (d : Fin 17) : (s.setStack k a d).schedule = s.schedule := rfl
@[simp] theorem State.setStack_out (k : Fin 16) (a : Word) (d : Fin 17) : (s.setStack k a d).out = s.out := rfl

/-! ### `State.setSp` -/

@[simp] theorem State.setSp_v (d : Fin 17) : (s.setSp d).v = s.v := rfl
@[simp] theorem State.setSp_ireg (d : Fin 17) : (s.setSp d).ireg = s.ireg := rfl
@[simp] theorem State.setSp_pc (d : Fin 17) : (s.setSp d).pc = s.pc := rfl
@[simp] theorem State.setSp_sp (d : Fin 17) : (s.setSp d).sp = d := rfl
@[simp] theorem State.setSp_stack (d : Fin 17) : (s.setSp d).stack = s.stack := rfl
@[simp] theorem State.setSp_dt (d : Fin 17) : (s.setSp d).dt = s.dt := rfl
@[simp] theorem State.setSp_st (d : Fin 17) : (s.setSp d).st = s.st := rfl
@[simp] theorem State.setSp_keys (d : Fin 17) : (s.setSp d).keys = s.keys := rfl
@[simp] theorem State.setSp_fb (d : Fin 17) : (s.setSp d).fb = s.fb := rfl
@[simp] theorem State.setSp_mem (d : Fin 17) : (s.setSp d).mem = s.mem := rfl
@[simp] theorem State.setSp_run (d : Fin 17) : (s.setSp d).run = s.run := rfl
@[simp] theorem State.setSp_fault (d : Fin 17) : (s.setSp d).fault = s.fault := rfl
@[simp] theorem State.setSp_dirty (d : Fin 17) : (s.setSp d).dirty = s.dirty := rfl
@[simp] theorem State.setSp_params (d : Fin 17) : (s.setSp d).params = s.params := rfl
@[simp] theorem State.setSp_schedule (d : Fin 17) : (s.setSp d).schedule = s.schedule := rfl
@[simp] theorem State.setSp_out (d : Fin 17) : (s.setSp d).out = s.out := rfl

/-! ### `State.setFb` -/

@[simp] theorem State.setFb_v (f : Screen) : (s.setFb f).v = s.v := rfl
@[simp] theorem State.setFb_ireg (f : Screen) : (s.setFb f).ireg = s.ireg := rfl
@[simp] theorem State.setFb_pc (f : Screen) : (s.setFb f).pc = s.pc := rfl
@[simp] theorem State.setFb_sp (f : Screen) : (s.setFb f).sp = s.sp := rfl
@[simp] theorem State.setFb_stack (f : Screen) : (s.setFb f).stack = s.stack := rfl
@[simp] theorem State.setFb_dt (f : Screen) : (s.setFb f).dt = s.dt := rfl
@[simp] theorem State.setFb_st (f : Screen) : (s.setFb f).st = s.st := rfl
@[simp] theorem State.setFb_keys (f : Screen) : (s.setFb f).keys = s.keys := rfl
@[simp] theorem State.setFb_fb (f : Screen) : (s.setFb f).fb = f := rfl
@[simp] theorem State.setFb_mem (f : Screen) : (s.setFb f).mem = s.mem := rfl
@[simp] theorem State.setFb_run (f : Screen) : (s.setFb f).run = s.run := rfl
@[simp] theorem State.setFb_fault (f : Screen) : (s.setFb f).fault = s.fault := rfl
@[simp] theorem State.setFb_dirty (f : Screen) : (s.setFb f).dirty = s.dirty := rfl
@[simp] theorem State.setFb_params (f : Screen) : (s.setFb f).params = s.params := rfl
@[simp] theorem State.setFb_schedule (f : Screen) : (s.setFb f).schedule = s.schedule := rfl
@[simp] theorem State.setFb_out (f : Screen) : (s.setFb f).out = s.out := rfl

/-! ### `State.setDirty` -/

@[simp] theorem State.setDirty_v (b : Bool) : (s.setDirty b).v = s.v := rfl
@[simp] theorem State.setDirty_ireg (b : Bool) : (s.setDirty b).ireg = s.ireg := rfl
@[simp] theorem State.setDirty_pc (b : Bool) : (s.setDirty b).pc = s.pc := rfl
@[simp] theorem State.setDirty_sp (b : Bool) : (s.setDirty b).sp = s.sp := rfl
@[simp] theorem State.setDirty_stack (b : Bool) : (s.setDirty b).stack = s.stack := rfl
@[simp] theorem State.setDirty_dt (b : Bool) : (s.setDirty b).dt = s.dt := rfl
@[simp] theorem State.setDirty_st (b : Bool) : (s.setDirty b).st = s.st := rfl
@[simp] theorem State.setDirty_keys (b : Bool) : (s.setDirty b).keys = s.keys := rfl
@[simp] theorem State.setDirty_fb (b : Bool) : (s.setDirty b).fb = s.fb := rfl
@[simp] theorem State.setDirty_mem (b : Bool) : (s.setDirty b).mem = s.mem := rfl
@[simp] theorem State.setDirty_run (b : Bool) : (s.setDirty b).run = s.run := rfl
@[simp] theorem State.setDirty_fault (b : Bool) : (s.setDirty b).fault = s.fault := rfl
@[simp] theorem State.setDirty_dirty (b : Bool) : (s.setDirty b).dirty = b := rfl
@[simp] theorem State.setDirty_params (b : Bool) : (s.setDirty b).params = s.params := rfl
@[simp] theorem State.setDirty_schedule (b : Bool) : (s.setDirty b).schedule = s.schedule := rfl
@[simp] theorem State.setDirty_out (b : Bool) : (s.setDirty b).out = s.out := rfl

/-! ### `State.setMem` -/

@[simp] theorem State.setMem_v (m : Memory) : (s.setMem m).v = s.v := rfl
@[simp] theorem State.setMem_ireg (m : Memory) : (s.setMem m).ireg = s.ireg := rfl
@[simp] theorem State.setMem_pc (m : Memory) : (s.setMem m).pc = s.pc := rfl
@[simp] theorem State.setMem_sp (m : Memory) : (s.setMem m).sp = s.sp := rfl
@[simp] theorem State.setMem_stack (m : Memory) : (s.setMem m).stack = s.stack := rfl
@[simp] theorem State.setMem_dt (m : Memory) : (s.setMem m).dt = s.dt := rfl
@[simp] theorem State.setMem_st (m : Memory) : (s.setMem m).st = s.st := rfl
@[simp] theorem State.setMem_keys (m : Memory) : (s.setMem m).keys = s.keys := rfl
@[simp] theorem State.setMem_fb (m : Memory) : (s.setMem m).fb = s.fb := rfl
@[simp] theorem State.setMem_mem (m : Memory) : (s.setMem m).mem = m := rfl
@[simp] theorem State.setMem_run (m : Memory) : (s.setMem m).run = s.run := rfl
@[simp] theorem State.setMem_fault (m : Memory) : (s.setMem m).fault = s.fault := rfl
@[simp] theorem State.setMem_dirty (m : Memory) : (s.setMem m).dirty = s.dirty := rfl
@[simp] theorem State.setMem_params (m : Memory) : (s.setMem m).params = s.params := rfl
@[simp] theorem State.setMem_schedule (m : Memory) : (s.setMem m).schedule = s.schedule := rfl
@[simp] theorem State.setMem_out (m : Memory) : (s.setMem m).out = s.out := rfl

/-! ### `State.setRun` -/

@[simp] theorem State.setRun_v (r : RunState) : (s.setRun r).v = s.v := rfl
@[simp] theorem State.setRun_ireg (r : RunState) : (s.setRun r).ireg = s.ireg := rfl
@[simp] theorem State.setRun_pc (r : RunState) : (s.setRun r).pc = s.pc := rfl
@[simp] theorem State.setRun_sp (r : RunState) : (s.setRun r).sp = s.sp := rfl
@[simp] theorem State.setRun_stack (r : RunState) : (s.setRun r).stack = s.stack := rfl
@[simp] theorem State.setRun_dt (r : RunState) : (s.setRun r).dt = s.dt := rfl
@[simp] theorem State.setRun_st (r : RunState) : (s.setRun r).st = s.st := rfl
@[simp] theorem State.setRun_keys (r : RunState) : (s.setRun r).keys = s.keys := rfl
@[simp] theorem State.setRun_fb (r : RunState) : (s.setRun r).fb = s.fb := rfl
@[simp] theorem State.setRun_mem (r : RunState) : (s.setRun r).mem = s.mem := rfl
@[simp] theorem State.setRun_run (r : RunState) : (s.setRun r).run = r := rfl
@[simp] theorem State.setRun_fault (r : RunState) : (s.setRun r).fault = s.fault := rfl
@[simp] theorem State.setRun_dirty (r : RunState) : (s.setRun r).dirty = s.dirty := rfl
@[simp] theorem State.setRun_params (r : RunState) : (s.setRun r).params = s.params := rfl
@[simp] theorem State.setRun_schedule (r : RunState) : (s.setRun r).schedule = s.schedule := rfl
@[simp] theorem State.setRun_out (r : RunState) : (s.setRun r).out = s.out := rfl

/-! ### `State.setFault` -/

@[simp] theorem State.setFault_v (f : Option FaultRecord) : (s.setFault f).v = s.v := rfl
@[simp] theorem State.setFault_ireg (f : Option FaultRecord) : (s.setFault f).ireg = s.ireg := rfl
@[simp] theorem State.setFault_pc (f : Option FaultRecord) : (s.setFault f).pc = s.pc := rfl
@[simp] theorem State.setFault_sp (f : Option FaultRecord) : (s.setFault f).sp = s.sp := rfl
@[simp] theorem State.setFault_stack (f : Option FaultRecord) : (s.setFault f).stack = s.stack := rfl
@[simp] theorem State.setFault_dt (f : Option FaultRecord) : (s.setFault f).dt = s.dt := rfl
@[simp] theorem State.setFault_st (f : Option FaultRecord) : (s.setFault f).st = s.st := rfl
@[simp] theorem State.setFault_keys (f : Option FaultRecord) : (s.setFault f).keys = s.keys := rfl
@[simp] theorem State.setFault_fb (f : Option FaultRecord) : (s.setFault f).fb = s.fb := rfl
@[simp] theorem State.setFault_mem (f : Option FaultRecord) : (s.setFault f).mem = s.mem := rfl
@[simp] theorem State.setFault_run (f : Option FaultRecord) : (s.setFault f).run = s.run := rfl
@[simp] theorem State.setFault_fault (f : Option FaultRecord) : (s.setFault f).fault = f := rfl
@[simp] theorem State.setFault_dirty (f : Option FaultRecord) : (s.setFault f).dirty = s.dirty := rfl
@[simp] theorem State.setFault_params (f : Option FaultRecord) : (s.setFault f).params = s.params := rfl
@[simp] theorem State.setFault_schedule (f : Option FaultRecord) : (s.setFault f).schedule = s.schedule := rfl
@[simp] theorem State.setFault_out (f : Option FaultRecord) : (s.setFault f).out = s.out := rfl

/-! ### `State.setDt` -/

@[simp] theorem State.setDt_v (b : Byte) : (s.setDt b).v = s.v := rfl
@[simp] theorem State.setDt_ireg (b : Byte) : (s.setDt b).ireg = s.ireg := rfl
@[simp] theorem State.setDt_pc (b : Byte) : (s.setDt b).pc = s.pc := rfl
@[simp] theorem State.setDt_sp (b : Byte) : (s.setDt b).sp = s.sp := rfl
@[simp] theorem State.setDt_stack (b : Byte) : (s.setDt b).stack = s.stack := rfl
@[simp] theorem State.setDt_dt (b : Byte) : (s.setDt b).dt = b := rfl
@[simp] theorem State.setDt_st (b : Byte) : (s.setDt b).st = s.st := rfl
@[simp] theorem State.setDt_keys (b : Byte) : (s.setDt b).keys = s.keys := rfl
@[simp] theorem State.setDt_fb (b : Byte) : (s.setDt b).fb = s.fb := rfl
@[simp] theorem State.setDt_mem (b : Byte) : (s.setDt b).mem = s.mem := rfl
@[simp] theorem State.setDt_run (b : Byte) : (s.setDt b).run = s.run := rfl
@[simp] theorem State.setDt_fault (b : Byte) : (s.setDt b).fault = s.fault := rfl
@[simp] theorem State.setDt_dirty (b : Byte) : (s.setDt b).dirty = s.dirty := rfl
@[simp] theorem State.setDt_params (b : Byte) : (s.setDt b).params = s.params := rfl
@[simp] theorem State.setDt_schedule (b : Byte) : (s.setDt b).schedule = s.schedule := rfl
@[simp] theorem State.setDt_out (b : Byte) : (s.setDt b).out = s.out := rfl

/-! ### `State.setSt` -/

@[simp] theorem State.setSt_v (b : Byte) : (s.setSt b).v = s.v := rfl
@[simp] theorem State.setSt_ireg (b : Byte) : (s.setSt b).ireg = s.ireg := rfl
@[simp] theorem State.setSt_pc (b : Byte) : (s.setSt b).pc = s.pc := rfl
@[simp] theorem State.setSt_sp (b : Byte) : (s.setSt b).sp = s.sp := rfl
@[simp] theorem State.setSt_stack (b : Byte) : (s.setSt b).stack = s.stack := rfl
@[simp] theorem State.setSt_dt (b : Byte) : (s.setSt b).dt = s.dt := rfl
@[simp] theorem State.setSt_st (b : Byte) : (s.setSt b).st = b := rfl
@[simp] theorem State.setSt_keys (b : Byte) : (s.setSt b).keys = s.keys := rfl
@[simp] theorem State.setSt_fb (b : Byte) : (s.setSt b).fb = s.fb := rfl
@[simp] theorem State.setSt_mem (b : Byte) : (s.setSt b).mem = s.mem := rfl
@[simp] theorem State.setSt_run (b : Byte) : (s.setSt b).run = s.run := rfl
@[simp] theorem State.setSt_fault (b : Byte) : (s.setSt b).fault = s.fault := rfl
@[simp] theorem State.setSt_dirty (b : Byte) : (s.setSt b).dirty = s.dirty := rfl
@[simp] theorem State.setSt_params (b : Byte) : (s.setSt b).params = s.params := rfl
@[simp] theorem State.setSt_schedule (b : Byte) : (s.setSt b).schedule = s.schedule := rfl
@[simp] theorem State.setSt_out (b : Byte) : (s.setSt b).out = s.out := rfl

/-! ### `State.setKeys` -/

@[simp] theorem State.setKeys_v (k : Vector Bool 16) : (s.setKeys k).v = s.v := rfl
@[simp] theorem State.setKeys_ireg (k : Vector Bool 16) : (s.setKeys k).ireg = s.ireg := rfl
@[simp] theorem State.setKeys_pc (k : Vector Bool 16) : (s.setKeys k).pc = s.pc := rfl
@[simp] theorem State.setKeys_sp (k : Vector Bool 16) : (s.setKeys k).sp = s.sp := rfl
@[simp] theorem State.setKeys_stack (k : Vector Bool 16) : (s.setKeys k).stack = s.stack := rfl
@[simp] theorem State.setKeys_dt (k : Vector Bool 16) : (s.setKeys k).dt = s.dt := rfl
@[simp] theorem State.setKeys_st (k : Vector Bool 16) : (s.setKeys k).st = s.st := rfl
@[simp] theorem State.setKeys_keys (k : Vector Bool 16) : (s.setKeys k).keys = k := rfl
@[simp] theorem State.setKeys_fb (k : Vector Bool 16) : (s.setKeys k).fb = s.fb := rfl
@[simp] theorem State.setKeys_mem (k : Vector Bool 16) : (s.setKeys k).mem = s.mem := rfl
@[simp] theorem State.setKeys_run (k : Vector Bool 16) : (s.setKeys k).run = s.run := rfl
@[simp] theorem State.setKeys_fault (k : Vector Bool 16) : (s.setKeys k).fault = s.fault := rfl
@[simp] theorem State.setKeys_dirty (k : Vector Bool 16) : (s.setKeys k).dirty = s.dirty := rfl
@[simp] theorem State.setKeys_params (k : Vector Bool 16) : (s.setKeys k).params = s.params := rfl
@[simp] theorem State.setKeys_schedule (k : Vector Bool 16) : (s.setKeys k).schedule = s.schedule := rfl
@[simp] theorem State.setKeys_out (k : Vector Bool 16) : (s.setKeys k).out = s.out := rfl

/-! ### `State.setSchedule` -/

@[simp] theorem State.setSchedule_v (l : List Turn) : (s.setSchedule l).v = s.v := rfl
@[simp] theorem State.setSchedule_ireg (l : List Turn) : (s.setSchedule l).ireg = s.ireg := rfl
@[simp] theorem State.setSchedule_pc (l : List Turn) : (s.setSchedule l).pc = s.pc := rfl
@[simp] theorem State.setSchedule_sp (l : List Turn) : (s.setSchedule l).sp = s.sp := rfl
@[simp] theorem State.setSchedule_stack (l : List Turn) : (s.setSchedule l).stack = s.stack := rfl
@[simp] theorem State.setSchedule_dt (l : List Turn) : (s.setSchedule l).dt = s.dt := rfl
@[simp] theorem State.setSchedule_st (l : List Turn) : (s.setSchedule l).st = s.st := rfl
@[simp] theorem State.setSchedule_keys (l : List Turn) : (s.setSchedule l).keys = s.keys := rfl
@[simp] theorem State.setSchedule_fb (l : List Turn) : (s.setSchedule l).fb = s.fb := rfl
@[simp] theorem State.setSchedule_mem (l : List Turn) : (s.setSchedule l).mem = s.mem := rfl
@[simp] theorem State.setSchedule_run (l : List Turn) : (s.setSchedule l).run = s.run := rfl
@[simp] theorem State.setSchedule_fault (l : List Turn) : (s.setSchedule l).fault = s.fault := rfl
@[simp] theorem State.setSchedule_dirty (l : List Turn) : (s.setSchedule l).dirty = s.dirty := rfl
@[simp] theorem State.setSchedule_params (l : List Turn) : (s.setSchedule l).params = s.params := rfl
@[simp] theorem State.setSchedule_schedule (l : List Turn) : (s.setSchedule l).schedule = l := rfl
@[simp] theorem State.setSchedule_out (l : List Turn) : (s.setSchedule l).out = s.out := rfl

/-! ### `State.emit` -/

@[simp] theorem State.emit_v (o : Output) : (s.emit o).v = s.v := rfl
@[simp] theorem State.emit_ireg (o : Output) : (s.emit o).ireg = s.ireg := rfl
@[simp] theorem State.emit_pc (o : Output) : (s.emit o).pc = s.pc := rfl
@[simp] theorem State.emit_sp (o : Output) : (s.emit o).sp = s.sp := rfl
@[simp] theorem State.emit_stack (o : Output) : (s.emit o).stack = s.stack := rfl
@[simp] theorem State.emit_dt (o : Output) : (s.emit o).dt = s.dt := rfl
@[simp] theorem State.emit_st (o : Output) : (s.emit o).st = s.st := rfl
@[simp] theorem State.emit_keys (o : Output) : (s.emit o).keys = s.keys := rfl
@[simp] theorem State.emit_fb (o : Output) : (s.emit o).fb = s.fb := rfl
@[simp] theorem State.emit_mem (o : Output) : (s.emit o).mem = s.mem := rfl
@[simp] theorem State.emit_run (o : Output) : (s.emit o).run = s.run := rfl
@[simp] theorem State.emit_fault (o : Output) : (s.emit o).fault = s.fault := rfl
@[simp] theorem State.emit_dirty (o : Output) : (s.emit o).dirty = s.dirty := rfl
@[simp] theorem State.emit_params (o : Output) : (s.emit o).params = s.params := rfl
@[simp] theorem State.emit_schedule (o : Output) : (s.emit o).schedule = s.schedule := rfl
@[simp] theorem State.emit_out (o : Output) : (s.emit o).out = o :: s.out := rfl

end Sys2Proof.Machine
end

