-- ==== Sys2Proof/Laws/Ops.lean ====
section
/-! SUPPORT. One lemma per shared operation that says everything it can do; later proofs cite it and do not unfold the
operation. -/

namespace Sys2Proof.Machine

/-- What a bounds-checked read can answer (R53). -/
theorem readByte_cases (s : State) (a : Nat) :
    (a < Config.memSize ∧ readByte s a = .ok (Memory.get s.params s.mem a)) ∨
    (Config.memSize ≤ a ∧ readByte s a = .error (.addressOutOfRange a)) := by
  unfold readByte
  split
  · exact .inl ⟨‹_›, rfl⟩
  · exact .inr ⟨by omega, rfl⟩

theorem readByte_ok {s : State} {a : Nat} {b : Byte} (h : readByte s a = .ok b) :
    a < Config.memSize ∧ b = Memory.get s.params s.mem a := by
  rcases readByte_cases s a with ⟨ha, hr⟩ | ⟨_, hr⟩ <;> rw [hr] at h <;> cases h
  exact ⟨ha, rfl⟩

/-- A read depends on the parameters and on memory alone. -/
theorem readByte_congr {s t : State} (hp : t.params = s.params) (hm : t.mem = s.mem) (a : Nat) :
    readByte t a = readByte s a := by
  simp only [readByte, hp, hm]

/-- What a bounds-checked write can answer (R53). -/
theorem writeByte_cases (s : State) (a : Nat) (b : Byte) :
    (a < Config.memSize ∧ writeByte s a b = .ok (s.setMem (Memory.set s.params s.mem a b))) ∨
    (Config.memSize ≤ a ∧ writeByte s a b = .error (.addressOutOfRange a)) := by
  unfold writeByte
  split
  · exact .inl ⟨‹_›, rfl⟩
  · exact .inr ⟨by omega, rfl⟩

/-- What a read of consecutive bytes can answer: all of them when all exist, else the first address that does not
(R132, R135). -/
theorem readBytes_cases (s : State) (a n : Nat) :
    ((∀ r < n, a + r < Config.memSize) ∧
      readBytes s a n = .ok ((List.range n).map (fun r => Memory.get s.params s.mem (a + r)))) ∨
    (∃ r < n, Config.memSize ≤ a + r ∧ (∀ q < r, a + q < Config.memSize) ∧
      readBytes s a n = .error (.addressOutOfRange (a + r))) := by
  induction n generalizing a with
  | zero => exact .inl ⟨fun r h => absurd h (Nat.not_lt_zero r), rfl⟩
  | succ n ih =>
    rcases readByte_cases s a with ⟨ha, hr⟩ | ⟨ha, hr⟩
    · rcases ih (a + 1) with ⟨hall, hb⟩ | ⟨r, hr1, hr2, hr3, hb⟩
      · refine .inl ⟨fun r h => ?_, ?_⟩
        · cases r with
          | zero => exact ha
          | succ r => have := hall r (by omega); omega
        · simp only [readBytes, hr, hb]
          rw [List.range_succ_eq_map, List.map_cons, List.map_map]
          congr 2
          exact List.map_congr_left (fun r _ => congrArg _ (by omega))
      · have hadd : a + 1 + r = a + (r + 1) := by omega
        refine .inr ⟨r + 1, by omega, by omega, fun q hq => ?_, ?_⟩
        · cases q with
          | zero => exact ha
          | succ q => have := hr3 q (by omega); omega
        · simp only [readBytes, hr, hb, hadd]
    · exact .inr ⟨0, by omega, ha, fun q h => absurd h (Nat.not_lt_zero q), by simp only [readBytes, hr, Nat.add_zero]⟩

/-- A read of consecutive bytes depends on the parameters and on memory alone. -/
theorem readBytes_congr {s t : State} (hp : t.params = s.params) (hm : t.mem = s.mem) (a n : Nat) :
    readBytes t a n = readBytes s a n := by
  induction n generalizing a with
  | zero => rfl
  | succ n ih => simp only [readBytes, readByte_congr hp hm, ih]

/-- What storing consecutive bytes does: memory alone changes, the bytes are there, every other address keeps its byte,
and the canonical form is kept. -/
theorem writeBytes_ok (s : State) (a : Nat) (bs : List Byte) (h : a + bs.length ≤ Config.memSize) :
    ∃ m, writeBytes s a bs = .ok (s.setMem m) ∧
      (∀ c, Memory.get s.params m c =
        if hc : a ≤ c ∧ c < a + bs.length then bs[c - a]'(by omega) else Memory.get s.params s.mem c) ∧
      (Memory.wf s.params s.mem → Memory.wf s.params m) := by
  induction bs generalizing a with
  | nil => exact ⟨s.mem, rfl, fun c => by simp, id⟩
  | cons b bs ih =>
    simp only [List.length_cons] at h
    obtain ⟨m, hw, hg, hwf⟩ := ih (a + 1) (by omega)
    have ha : a < Config.memSize := by omega
    refine ⟨Memory.set s.params m a b, ?_, fun c => ?_, fun hs => Memory.wf_set _ (hwf hs) ha b⟩
    · simp only [writeBytes, hw]
      rcases writeByte_cases (s.setMem m) a b with ⟨_, hr⟩ | ⟨hr, _⟩
      · exact hr
      · omega
    · rw [Memory.get_set, hg]
      simp only [List.length_cons]
      by_cases hc : c = a
      · subst hc; simp
      · rw [if_neg hc]
        by_cases hr : a + 1 ≤ c ∧ c < a + 1 + bs.length
        · rw [dif_pos hr, dif_pos (by omega)]
          have : c - a = (c - (a + 1)) + 1 := by omega
          simp only [this, List.getElem_cons_succ]
        · rw [dif_neg hr, dif_neg (by omega)]

/-- What `Push` can answer (R26). -/
theorem push_cases (s : State) (a : Word) :
    (s.sp.val < s.params.stackCap.val ∧ ∃ h16 : s.sp.val < 16,
      push s a = .ok (s.setStack ⟨s.sp.val, h16⟩ a ⟨s.sp.val + 1, by omega⟩)) ∨
    (s.params.stackCap.val ≤ s.sp.val ∧ push s a = .error .stackOverflow) := by
  unfold push
  split
  · exact .inl ⟨‹_›, Nat.lt_of_lt_of_le ‹_› s.params.stackCap.property.2, rfl⟩
  · exact .inr ⟨by omega, rfl⟩

/-- What `Pop` can answer (R26). -/
theorem pop_cases (s : State) :
    (s.sp.val ≠ 0 ∧
      pop s = .ok (s.stack[s.sp.val - 1]'(by omega), s.setSp ⟨s.sp.val - 1, by omega⟩)) ∨
    (s.sp.val = 0 ∧ pop s = .error .stackUnderflow) := by
  unfold pop
  split
  · exact .inr ⟨‹_›, rfl⟩
  · exact .inl ⟨‹_›, rfl⟩

/-- Taking a fault changes `RUN` and `FAULT` alone (R155). -/
theorem takeFault_eq (s : State) (r : Raise) (pc op : Option Word) :
    takeFault s r pc op =
      { s with run := .halted
               fault := some (s.fault.getD { kind := r.kind, pc := pc, opcode := op, addr := r.addr }) } := by
  unfold takeFault
  cases h : s.fault <;> rfl

/-- What the fetch can answer: both bytes when both exist, else the first address that does not (R91). -/
theorem fetch_cases (s : State) :
    (s.pc.toNat + 1 < Config.memSize ∧
      fetch s = .ok (Memory.get s.params s.mem s.pc.toNat, Memory.get s.params s.mem (s.pc.toNat + 1))) ∨
    (s.pc.toNat + 1 = Config.memSize ∧ fetch s = .error (.addressOutOfRange Config.memSize)) ∨
    (Config.memSize ≤ s.pc.toNat ∧ fetch s = .error (.addressOutOfRange s.pc.toNat)) := by
  rcases readByte_cases s s.pc.toNat with ⟨h0, r0⟩ | ⟨h0, r0⟩
  · rcases readByte_cases s (s.pc.toNat + 1) with ⟨h1, r1⟩ | ⟨h1, r1⟩
    · exact .inl ⟨h1, by simp only [fetch, r0, r1]⟩
    · have he : s.pc.toNat + 1 = Config.memSize := by omega
      rw [he] at r1
      exact .inr (.inl ⟨he, by simp only [fetch, r0, he, r1]⟩)
  · exact .inr (.inr ⟨h0, by simp only [fetch, r0]⟩)

/-- What the Executor starts from (R92, R170). -/
theorem fetched_eq (s : State) (op : Word) :
    fetched s op = { s with pc := s.pc + 2#16, out := .trace s.pc (decodeFields op) :: s.out } := rfl

end Sys2Proof.Machine
end

