-- ==== Sys2Proof/Laws/Draw.lean ====
section
/-! SUPPORT. The laws of the framebuffer and of drawing one sprite row. -/

namespace Sys2Proof.Machine

/-- Inverting a pixel changes that pixel alone (R134). -/
theorem Screen.pixel_invert (f : Screen) (x px : Fin Config.fbWidth) (y py : Fin Config.fbHeight) :
    (f.invert x y).pixel px py = if px = x ∧ py = y then !f.pixel x y else f.pixel px py := by
  simp only [Screen.pixel, Screen.invert, Fin.getElem_fin, Vector.getElem_set, Fin.ext_iff]
  by_cases hy : py.val = y.val
  · simp only [hy, if_true, Vector.getElem_set, and_true, eq_comm]
  · simp only [hy, and_false, if_false, if_neg (Ne.symm hy)]

/-- A blank framebuffer is off everywhere (R100). -/
theorem Screen.pixel_blank (x : Fin Config.fbWidth) (y : Fin Config.fbHeight) : Screen.blank.pixel x y = false := by
  simp [Screen.pixel, Screen.blank]

/-- Column `px` is drawn by the last `k` bits of sprite byte `b` at column `x0`, with a 1-bit (R133). -/
def RowCovers (b : Byte) (x0 : Fin Config.fbWidth) (k : Nat) (px : Fin Config.fbWidth) : Bool :=
  decide (x0.val + 8 ≤ px.val + k ∧ px.val < x0.val + 8) && b.getLsbD (7 - (px.val - x0.val))

/-- Drawing the last `k` bits of a row: the covered pixels of the row are inverted and no other; a collision is added
iff a covered pixel was on before (R133, R134). -/
theorem drawBits_spec (b : Byte) (x0 : Fin Config.fbWidth) (y : Fin Config.fbHeight) (k : Nat) (hk : k ≤ 8) (c : Canvas) :
    (∀ px py, (drawBits b x0 y k c).fb.pixel px py =
      (c.fb.pixel px py ^^ (decide (py = y) && RowCovers b x0 k px))) ∧
    ((drawBits b x0 y k c).hit = true ↔
      c.hit = true ∨ ∃ px, RowCovers b x0 k px = true ∧ c.fb.pixel px y = true) := by
  induction k generalizing c with
  | zero =>
    have hno : ∀ px, RowCovers b x0 0 px = false := fun px => by
      simp only [RowCovers, Bool.and_eq_false_iff, decide_eq_false_iff_not]; left; omega
    simp [drawBits, hno]
  | succ k ih =>
    simp only [drawBits]
    split
    · rename_i hcol
      have hstep : ∀ px : Fin Config.fbWidth, RowCovers b x0 (k + 1) px =
          (RowCovers b x0 k px || (decide (px.val = x0.val + (7 - k)) && b.getLsbD k)) := fun px => by
        by_cases hpx : px.val = x0.val + (7 - k)
        · have hidx : 7 - (px.val - x0.val) = k := by omega
          have hnot : ¬(x0.val + 8 ≤ px.val + k) := by omega
          have hin : x0.val + 8 ≤ px.val + (k + 1) ∧ px.val < x0.val + 8 := by omega
          simp only [RowCovers, hidx, hnot, hin, false_and, decide_true, decide_false,
            Bool.true_and, Bool.false_and, Bool.false_or, and_self, decide_eq_true hpx]
        · have heq : (x0.val + 8 ≤ px.val + (k + 1)) = (x0.val + 8 ≤ px.val + k) := by
            apply propext; omega
          simp [RowCovers, hpx, heq]
      have hold : RowCovers b x0 k ⟨x0.val + (7 - k), hcol⟩ = false := by
        simp only [RowCovers, Bool.and_eq_false_iff, decide_eq_false_iff_not]; left; omega
      cases hb : b.getLsbD k
      · obtain ⟨hp, hh⟩ := ih (by omega) c
        simp only [Bool.false_eq_true, if_false, hstep, hb, Bool.and_false, Bool.or_false]
        exact ⟨hp, hh⟩
      · obtain ⟨hp, hh⟩ := ih (by omega) (c.plot ⟨x0.val + (7 - k), hcol⟩ y)
        simp only [if_true, hstep, hb, Bool.and_true]
        refine ⟨fun px py => ?_, ?_⟩
        · rw [hp px py]
          simp only [Canvas.plot, Screen.pixel_invert]
          by_cases hpx : px = ⟨x0.val + (7 - k), hcol⟩
          · subst hpx
            by_cases hpy : py = y
            · subst hpy; simp [hold]
            · simp [hpy]
          · have hv : px.val ≠ x0.val + (7 - k) := fun h => hpx (Fin.ext h)
            simp [hpx, hv]
        · rw [hh]
          simp only [Canvas.plot, Screen.pixel_invert, Bool.or_eq_true, and_true]
          constructor
          · rintro ((h | h) | ⟨px, h1, h2⟩)
            · exact .inl h
            · exact .inr ⟨_, .inr (by simp), h⟩
            · by_cases hpx : px = ⟨x0.val + (7 - k), hcol⟩
              · subst hpx; rw [hold] at h1; cases h1
              · rw [if_neg hpx] at h2
                exact .inr ⟨px, .inl h1, h2⟩
          · rintro (h | ⟨px, h1 | h1, h2⟩)
            · exact .inl (.inl h)
            · by_cases hpx : px = ⟨x0.val + (7 - k), hcol⟩
              · subst hpx; exact .inl (.inr h2)
              · exact .inr ⟨px, h1, by rw [if_neg hpx]; exact h2⟩
            · have hpx : px = ⟨x0.val + (7 - k), hcol⟩ := Fin.ext (by simpa using h1)
              subst hpx; exact .inl (.inr h2)
    · rename_i hcol
      have hno : ∀ px : Fin Config.fbWidth, RowCovers b x0 (k + 1) px = false := fun px => by
        have := px.isLt
        simp only [RowCovers, Bool.and_eq_false_iff, decide_eq_false_iff_not]; left; omega
      simp [hno]

end Sys2Proof.Machine
end

