-- ==== Sys2Proof/Laws/PerInstr.lean ====
section
/-! SUPPORT. Statements about every instruction as syntax, one lemma per constructor. -/

namespace Sys2Proof.Laws.MatchesRow

/-- The opcode of an instruction is selected by the row of the opcode map with its mnemonic (R73, R74). -/
def Statement (i : Instr) : Prop := ∃ r ∈ opcodeTable, r.mnemonic = i.mnemonic ∧ r.selects (encode i) = true

theorem cls : Statement .cls := ⟨⟨"CLS", 0x00E0#16, 0xFFFF#16⟩, by decide, rfl, by decide⟩

theorem ret : Statement .ret := ⟨⟨"RET", 0x00EE#16, 0xFFFF#16⟩, by decide, rfl, by decide⟩

theorem call (nnn : Addr12) : Statement (.call nnn) := by
  refine ⟨⟨"CALL", 0x2000#16, 0xF000#16⟩, by decide, rfl, ?_⟩
  simp only [OpcodeRow.selects, encode, beq_iff_eq]
  ext k hk
  interval_cases k <;> simp

theorem ldVx (x : Nibble) (nn : Byte) : Statement (.ldVx x nn) := by
  refine ⟨⟨"LD_Vx__byte", 0x6000#16, 0xF000#16⟩, by decide, rfl, ?_⟩
  simp only [OpcodeRow.selects, encode, beq_iff_eq]
  ext k hk
  interval_cases k <;> simp

theorem ldI (nnn : Addr12) : Statement (.ldI nnn) := by
  refine ⟨⟨"LD_I__addr", 0xA000#16, 0xF000#16⟩, by decide, rfl, ?_⟩
  simp only [OpcodeRow.selects, encode, beq_iff_eq]
  ext k hk
  interval_cases k <;> simp

theorem drw (x y n : Nibble) : Statement (.drw x y n) := by
  refine ⟨⟨"DRW_Vx__Vy__nibble", 0xD000#16, 0xF000#16⟩, by decide, rfl, ?_⟩
  simp only [OpcodeRow.selects, encode, beq_iff_eq]
  ext k hk
  interval_cases k <;> simp

end Sys2Proof.Laws.MatchesRow
end

