-- ==== Sys2Proof/Laws/Step.lean ====
section
/-! SUPPORT. What the meanings, a cycle, a boot and a step can answer, said once. -/

namespace Sys2Proof.Machine

/-- `RET` pops, or takes `StackUnderflow` (R101). -/
theorem execRet_cases (s : State) :
    (s.sp.val ≠ 0 ∧
      execRet s = .next ((s.setSp ⟨s.sp.val - 1, by omega⟩).setPc (s.stack[s.sp.val - 1]'(by omega)))) ∨
    (s.sp.val = 0 ∧ execRet s = .next (takeFaultIn s .stackUnderflow .ret)) := by
  rcases pop_cases s with ⟨h, hp⟩ | ⟨h, hp⟩
  · exact .inl ⟨h, by simp only [execRet, hp]⟩
  · exact .inr ⟨h, by simp only [execRet, hp]⟩

/-- `CALL` pushes, or takes `StackOverflow` (R110). -/
theorem execCall_cases (nnn : Addr12) (s : State) :
    (s.sp.val < s.params.stackCap.val ∧ ∃ h16 : s.sp.val < 16,
      execCall nnn s = .next ((s.setStack ⟨s.sp.val, h16⟩ s.pc ⟨s.sp.val + 1, by omega⟩).setPc (addrOperand nnn))) ∨
    (s.params.stackCap.val ≤ s.sp.val ∧ execCall nnn s = .next (takeFaultIn s .stackOverflow (.call nnn))) := by
  rcases push_cases s s.pc with ⟨h, h16, hp⟩ | ⟨h, hp⟩
  · exact .inl ⟨h, h16, by simp only [execCall, hp]⟩
  · exact .inr ⟨h, by simp only [execCall, hp]⟩

/-- `DRW` draws, or takes `AddressOutOfRange` at the first row whose byte does not exist (R130, R135). -/
theorem execDrw_cases (x y n : Nibble) (s : State) :
    ((∀ r < spriteRows n (startRow s y), spriteAddress s + r < Config.memSize) ∧
      ∃ c, c = drawSprite s x y ((List.range (spriteRows n (startRow s y))).map
          (fun r => Memory.get s.params s.mem (spriteAddress s + r))) ∧
        execDrw x y n s = .next (markDirty (setCollision (s.setFb c.fb) c.hit))) ∨
    (∃ r < spriteRows n (startRow s y), Config.memSize ≤ spriteAddress s + r ∧
      (∀ q < r, spriteAddress s + q < Config.memSize) ∧
      execDrw x y n s = .next (takeFaultIn s (.addressOutOfRange (spriteAddress s + r)) (.drw x y n))) := by
  rcases readBytes_cases s (spriteAddress s) (spriteRows n (startRow s y)) with ⟨h, hb⟩ | ⟨r, h1, h2, h3, hb⟩
  · exact .inl ⟨h, _, rfl, by simp only [execDrw, spriteBytes, hb]⟩
  · exact .inr ⟨r, h1, h2, h3, by simp only [execDrw, spriteBytes, hb]⟩

/-- Every instruction answers a next state, from every state: the machine has no instruction it stops on. -/
theorem exec_next (i : Instr) (s : State) : ∃ t, exec i s = .next t := by
  cases i with
  | cls => exact ⟨_, rfl⟩
  | ret => rcases execRet_cases s with ⟨_, h⟩ | ⟨_, h⟩ <;> exact ⟨_, h⟩
  | call nnn => rcases execCall_cases nnn s with ⟨_, _, h⟩ | ⟨_, h⟩ <;> exact ⟨_, h⟩
  | ldVx x nn => exact ⟨_, rfl⟩
  | ldI nnn => exact ⟨_, rfl⟩
  | drw x y n =>
    rcases execDrw_cases x y n s with ⟨_, _, _, h⟩ | ⟨_, _, _, _, h⟩ <;> exact ⟨_, h⟩

/-- A fault taken is a fault entry with its own record (R155). -/
theorem takeFault_faultedWith (s : State) (r : Raise) (pc op : Option Word) :
    FaultedWith s (takeFault s r pc op) { kind := r.kind, pc := pc, opcode := op, addr := r.addr } := by
  rw [takeFault_eq]
  exact ⟨⟨rfl, rfl, rfl, ⟨rfl, rfl⟩, rfl, rfl, rfl⟩, rfl, ⟨rfl, rfl, rfl, rfl, rfl, rfl⟩, rfl, rfl⟩

/-- Everything an instruction can do: take the one fault of its rule, or have its own effect (R94, R156). -/
theorem exec_cases {i : Instr} {s t : State} (h : exec i s = .next t) :
    (∃ r : Raise, FaultedWith s t
        { kind := r.kind, pc := some (s.pc - 2#16), opcode := some (encode i), addr := r.addr } ∧
      ((∃ nnn, i = .call nnn ∧ s.params.stackCap.val ≤ s.sp.val ∧ r = .stackOverflow) ∨
        (i = .ret ∧ s.sp.val = 0 ∧ r = .stackUnderflow) ∨
        ∃ x y n, i = .drw x y n ∧ ∃ q < spriteRows n (startRow s y), Config.memSize ≤ spriteAddress s + q ∧
          (∀ p < q, spriteAddress s + p < Config.memSize) ∧ r = .addressOutOfRange (spriteAddress s + q))) ∨
    (i = .cls ∧ t = markDirty (s.setFb Screen.blank)) ∨
    (i = .ret ∧ s.sp.val ≠ 0 ∧
      t = (s.setSp ⟨s.sp.val - 1, by omega⟩).setPc (s.stack[s.sp.val - 1]'(by omega))) ∨
    (∃ nnn, i = .call nnn ∧ s.sp.val < s.params.stackCap.val ∧ ∃ h16 : s.sp.val < 16,
      t = (s.setStack ⟨s.sp.val, h16⟩ s.pc ⟨s.sp.val + 1, by omega⟩).setPc (addrOperand nnn)) ∨
    (∃ x nn, i = .ldVx x nn ∧ t = s.setV (regIndex x) (byteOperand nn)) ∨
    (∃ nnn, i = .ldI nnn ∧ t = s.setI (addrOperand nnn)) ∨
    (∃ x y n, i = .drw x y n ∧
      (∀ r < spriteRows n (startRow s y), spriteAddress s + r < Config.memSize) ∧
      ∃ c, c = drawSprite s x y ((List.range (spriteRows n (startRow s y))).map
          (fun r => Memory.get s.params s.mem (spriteAddress s + r))) ∧
        t = markDirty (setCollision (s.setFb c.fb) c.hit)) := by
  cases i with
  | cls => cases h; exact .inr (.inl ⟨rfl, rfl⟩)
  | ret =>
    change execRet s = _ at h
    rcases execRet_cases s with ⟨h0, h1⟩ | ⟨h0, h1⟩ <;> rw [h1] at h <;> cases h
    · exact .inr (.inr (.inl ⟨rfl, h0, rfl⟩))
    · exact .inl ⟨_, takeFault_faultedWith _ _ _ _, .inr (.inl ⟨rfl, h0, rfl⟩)⟩
  | call nnn =>
    change execCall nnn s = _ at h
    rcases execCall_cases nnn s with ⟨h0, h2, h1⟩ | ⟨h0, h1⟩ <;> rw [h1] at h <;> cases h
    · exact .inr (.inr (.inr (.inl ⟨nnn, rfl, h0, h2, rfl⟩)))
    · exact .inl ⟨_, takeFault_faultedWith _ _ _ _, .inl ⟨nnn, rfl, h0, rfl⟩⟩
  | ldVx x nn => cases h; exact .inr (.inr (.inr (.inr (.inl ⟨x, nn, rfl, rfl⟩))))
  | ldI nnn => cases h; exact .inr (.inr (.inr (.inr (.inr (.inl ⟨nnn, rfl, rfl⟩)))))
  | drw x y n =>
    change execDrw x y n s = _ at h
    rcases execDrw_cases x y n s with ⟨h0, c, hc, h1⟩ | ⟨r, h0, h2, h3, h1⟩ <;> rw [h1] at h <;> cases h
    · exact .inr (.inr (.inr (.inr (.inr (.inr ⟨x, y, n, rfl, h0, c, hc, rfl⟩)))))
    · exact .inl ⟨_, takeFault_faultedWith _ _ _ _, .inr (.inr ⟨x, y, n, rfl, r, h0, h2, h3, rfl⟩)⟩

/-- What a cycle can do: a fetch fault, an unrecognized opcode, or the Executor's answer (R90). -/
theorem cycle_cases (s : State) :
    (∃ r, fetch s = .error r ∧ cycle s = .next (takeFault s r (some s.pc) none)) ∨
    (∃ b0 b1, fetch s = .ok (b0, b1) ∧ dispatch (decodeFields (opcodeOf b0 b1)) = none ∧
      cycle s = .next (takeFault (fetched s (opcodeOf b0 b1)) (.unimplementedOpcode (opcodeOf b0 b1)) (some s.pc)
        (some (opcodeOf b0 b1)))) ∨
    (∃ b0 b1 i, fetch s = .ok (b0, b1) ∧ dispatch (decodeFields (opcodeOf b0 b1)) = some i ∧
      cycle s = exec i (fetched s (opcodeOf b0 b1))) := by
  cases hf : fetch s with
  | error r => exact .inl ⟨r, rfl, by simp only [cycle, hf]⟩
  | ok b =>
    obtain ⟨b0, b1⟩ := b
    cases hd : dispatch (decodeFields (opcodeOf b0 b1)) with
    | none => exact .inr (.inl ⟨b0, b1, rfl, hd, by simp only [cycle, hf, hd]⟩)
    | some i => exact .inr (.inr ⟨b0, b1, i, rfl, hd, by simp only [cycle, hf, hd]⟩)

/-- A cycle always answers a next state. -/
theorem cycle_next (s : State) : ∃ t, cycle s = .next t := by
  rcases cycle_cases s with ⟨r, _, h⟩ | ⟨b0, b1, _, _, h⟩ | ⟨b0, b1, i, _, _, h⟩
  · exact ⟨_, h⟩
  · exact ⟨_, h⟩
  · rw [h]; exact exec_next i _

/-- What a step can do: a cycle, a waiting turn, the stuck halt, or one host transaction (R95, R96, R192). -/
theorem step_cases (s : State) :
    (s.schedule = [] ∧ s.run = .running ∧ step s = cycle s) ∨
    (s.schedule = [] ∧ s.run = .paused ∧ step s = .next s) ∨
    (s.schedule = [] ∧ s.run = .halted ∧ step s = .fault (.halted s.fault)) ∨
    (∃ rest, s.schedule = .core :: rest ∧ s.run = .running ∧ step s = cycle (s.setSchedule rest)) ∨
    (∃ rest, s.schedule = .core :: rest ∧ s.run ≠ .running ∧ step s = .next (s.setSchedule rest)) ∨
    (∃ t rest, s.schedule = .host t :: rest ∧ step s = .next (transact (s.setSchedule rest) t)) := by
  rcases hs : s.schedule with _ | ⟨_ | t, rest⟩
  · cases hr : s.run <;> simp [step, hs, lastIteration, hr]
  · cases hr : s.run <;> simp [step, hs, iteration, hr]
  · simp [step, hs]

/-- What a boot leaves: the machine at reset but for memory, which holds the ROM over the reset contents; or, for a ROM
too large, the reset state halted with `ProgramTooLarge` (R180-R183). -/
theorem boot_cases (s : State) (rom : List Byte) :
    (rom.length ≤ Config.maxRom ∧ ∃ m, Memory.wf s.params m ∧
      (∀ c, Memory.get s.params m c =
        if h : Config.progBase ≤ c ∧ c < Config.progBase + rom.length then rom[c - Config.progBase]'(by omega)
        else Memory.unlisted s.params c) ∧
      boot s rom = { State.resetWith s.params with schedule := s.schedule, out := s.out, mem := m }) ∨
    (Config.maxRom < rom.length ∧ ∃ m, Memory.wf s.params m ∧
      (∀ c, Memory.get s.params m c = Memory.unlisted s.params c) ∧
      boot s rom =
        { State.resetWith s.params with
          schedule := s.schedule, out := s.out, mem := m, run := .halted
          fault := some { kind := .programTooLarge, pc := none, opcode := none, addr := none } }) := by
  let s0 : State := { State.resetWith s.params with schedule := s.schedule, out := s.out }
  have hlen : s.params.fontTable.toList.length = Config.fontLen := by simp
  have hfont : s.params.fontBase.val + s.params.fontTable.toList.length ≤ Config.memSize := by
    have := s.params.fontBase.property
    have hle : Config.progBase ≤ Config.memSize := by decide
    rw [hlen]; exact Nat.le_trans this hle
  obtain ⟨m, hm, hg, hwf⟩ := writeBytes_ok s0 s.params.fontBase.val s.params.fontTable.toList hfont
  have hunl : ∀ c, Memory.get s.params m c = Memory.unlisted s.params c := fun c => by
    rw [show Memory.get s.params m c = _ from hg c]
    split
    · rename_i hc
      simp only [hlen] at hc
      simp only [Memory.unlisted, dif_pos hc, Vector.getElem_toList]
    · rfl
  have hmwf : Memory.wf s.params m := hwf (Memory.wf_nil _)
  have hload : loadFont { State.resetWith s.params with schedule := s.schedule, out := s.out } = .ok (s0.setMem m) := hm
  by_cases hrom : rom.length ≤ Config.maxRom
  · obtain ⟨m', hm', hg', hwf'⟩ := writeBytes_ok (s0.setMem m) Config.progBase rom
      (Nat.le_trans (Nat.add_le_add_left hrom _) (by decide))
    refine .inl ⟨hrom, m', hwf' hmwf, fun c => ?_, ?_⟩
    · rw [show Memory.get s.params m' c = _ from hg' c]
      split
      · rfl
      · exact hunl c
    · simp only [boot, hload, loadProgram, if_pos hrom, hm']
      rfl
  · refine .inr ⟨by omega, m, hmwf, hunl, ?_⟩
    simp only [boot, hload, loadProgram, if_neg hrom]
    rfl

end Sys2Proof.Machine
end

