-- ==== Sys2Proof/Tests/Slice0.lean ====
section
/-! SUPPORT. The model's own tests: the vectors of 95_test_vectors one step at a time, an ill-formed term for each check
of WellFormed, the decoding of words written out from 30_encoding, and a witness for the hypotheses of each statement. -/

namespace Sys2Proof.Tests

open Sys2Proof Sys2Proof.Machine

/-- The reset state at `pc`, with `bytes` from `pc` on. -/
def prog (pc : Word) (bytes : List Byte) : State :=
  match writeBytes (State.reset.setPc pc) pc.toNat bytes with
  | .ok t => t
  | .error _ => State.reset

/-- `s` with `bytes` at `a`. -/
def withBytes (s : State) (a : Nat) (bytes : List Byte) : State :=
  match writeBytes s a bytes with
  | .ok t => t
  | .error _ => s

/-- The outcome is a next state that passes the check. -/
def nextIs (o : Host.Outcome State Fault Refusal) (check : State → Bool) : Bool :=
  match o with
  | .next t => check t
  | _ => false

/-! ### Well-formedness: each check refuses an ill-formed term. An ill-formed `Instr` cannot be written: its operands
carry their widths. -/

theorem test_params_ok : (Params.make? 16 0x1B0 (List.replicate 80 0xFF#8)).isSome = true := by decide

theorem test_stack_cap_too_small : Params.make? 11 0 (List.replicate 80 0#8) = none := by decide

theorem test_stack_cap_too_large : Params.make? 17 0 (List.replicate 80 0#8) = none := by decide

theorem test_font_base_too_high : Params.make? 12 0x1B1 (List.replicate 80 0#8) = none := by decide

theorem test_font_table_too_short : Params.make? 12 0 (List.replicate 79 0#8) = none := by decide

theorem test_rom_too_large : ¬ romOk (List.replicate 3585 0#8) := by
  rw [romOk, List.length_replicate]; decide

theorem test_instr_fields_in_range : Instr.WellFormed (.drw 0xF#4 0xF#4 0xF#4) := Instr.wellFormed _

/-! ### Decoding: words written out bit by bit from the formats of R73 -/

theorem test_decode_cls : decodeTableWord 16 0b0000000011100000 = some .cls := by decide

theorem test_decode_ret : decodeTableWord 16 0b0000000011101110 = some .ret := by decide

theorem test_decode_call : decodeTableWord 16 0b0010111100001110 = some (.call 0xF0E#12) := by decide

theorem test_decode_ldVx : decodeTableWord 16 0b0110101000111100 = some (.ldVx 0xA#4 0x3C#8) := by decide

theorem test_decode_ldI : decodeTableWord 16 0b1010001000000000 = some (.ldI 0x200#12) := by decide

theorem test_decode_drw : decodeTableWord 16 0b1101000100101010 = some (.drw 0x1#4 0x2#4 0xA#4) := by decide

/-- T-DEC: `0x00E1`, `0x7001`, `0x8AB4`, `0xF065`, `0xFFFF` and `0x0000` are unrecognized. -/
theorem test_decode_rejects :
    [0x0000, 0x00E1, 0x0FEE, 0x7001, 0x8AB4, 0xF065, 0xFFFF].map (decodeTableWord 16) = List.replicate 7 none := by
  decide

/-- Fewer than two bytes are no instruction (R70). -/
theorem test_decode_truncated : decode [0x60#8] = .error .truncated := rfl

/-- The placed word is the next one that runs, from reset. -/
theorem test_withFetchWord : nextIs (step (State.reset.withFetchWord 16 0x6A3C))
    (fun t => t.getV 0xA == 0x3C#8 && t.pc == 0x0202#16) = true := by decide

/-! ### One step of each instruction -/

/-- A framebuffer with the listed pixels on. -/
def screenOf (l : List (Fin 64 × Fin 32)) : Screen := l.foldl (fun f p => f.invert p.1 p.2) Screen.blank

/-- The listed pixels are all `b`. -/
def allAre (b : Bool) (f : Screen) (l : List (Fin 64 × Fin 32)) : Bool := l.all (fun p => f.pixel p.1 p.2 == b)

/-- T-CLS-1. -/
theorem test_cls : nextIs (step (((prog 0x300#16 [0x00#8, 0xE0#8]).setFb (screenOf [(0, 0), (63, 31), (10, 5)])).setV 15 1#8))
    (fun t => allAre false t.fb [(0, 0), (63, 31), (10, 5)] && t.getV 15 == 1#8 && t.pc == 0x302#16 && t.dirty) = true := by decide

/-- T-RET-1. -/
theorem test_ret : nextIs (step (((prog 0x400#16 [0x00#8, 0xEE#8]).setStack 0 0x0204#16 1).setStack 1 0x0310#16 2))
    (fun t => t.pc == 0x0310#16 && t.sp == 1 && t.stack[0] == 0x0204#16) = true := by decide

/-- T-RET-2, S5: `StackUnderflow` with `PC` at the address plus 2 (C1). -/
theorem test_ret_underflow : nextIs (step (prog 0x400#16 [0x00#8, 0xEE#8]))
    (fun t => t.pc == 0x402#16 && t.sp == 0 && t.run == .halted &&
      t.fault == some ⟨.stackUnderflow, some 0x400#16, some 0x00EE#16, none⟩) = true := by decide

/-- T-CALL-2: the last free entry at capacity 12. -/
theorem test_call : nextIs (step ((prog 0x300#16 [0x2A#8, 0xBC#8]).setSp 11))
    (fun t => t.stack[11] == 0x0302#16 && t.sp == 12 && t.pc == 0x0ABC#16) = true := by decide

/-- T-CALL-3: full at capacity 12. -/
theorem test_call_overflow : nextIs (step ((prog 0x300#16 [0x2A#8, 0xBC#8]).setSp 12))
    (fun t => t.pc == 0x0302#16 && t.sp == 12 && t.run == .halted &&
      t.fault == some ⟨.stackOverflow, some 0x300#16, some 0x2ABC#16, none⟩) = true := by decide

/-- T-LDV-1. -/
theorem test_ldVx : nextIs (step ((prog 0x200#16 [0x6A#8, 0x3C#8]).setV 0xA 0x11#8))
    (fun t => t.getV 0xA == 0x3C#8 && t.getV 0xB == 0#8 && t.pc == 0x202#16) = true := by decide

/-- T-LDV-4: `VF` is written like any other register. -/
theorem test_ldVx_vf : nextIs (step ((prog 0x200#16 [0x6F#8, 0x46#8]).setV 15 1#8)) (fun t => t.getV 15 == 0x46#8) = true := by
  decide

/-- T-LDI-2. -/
theorem test_ldI : nextIs (step ((prog 0x200#16 [0xAF#8, 0xFF#8]).setI 0x0123#16)) (fun t => t.ireg == 0x0FFF#16) = true := by
  decide

/-- P4, fourth cycle: the column from the old `VF`, both coordinates wrapped, the bottom clip, bit 7 leftmost. -/
theorem test_drw_clips_and_reads_vf_first :
    nextIs (step ((((withBytes (prog 0x206#16 [0xDF#8, 0x13#8]) 0x20A [0x81#8, 0xFF#8, 0xFF#8]).setI 0x20A#16).setV 15 0x46#8).setV
      1 0x3F#8))
    (fun t => allAre true t.fb [(6, 31), (13, 31)] &&
      allAre false t.fb [(5, 31), (7, 31), (12, 31), (14, 31), (6, 0), (6, 30)] && t.getV 15 == 0#8 && t.dirty && t.pc == 0x208#16) = true := by decide

/-- T-DRW-13 in columns 63 and on: a collision in the first row stays set through the second, and the right edge clips. -/
theorem test_drw_collision_is_sticky :
    nextIs (step ((((withBytes (prog 0x200#16 [0xD0#8, 0x12#8]) 0x300 [0xFF#8, 0x80#8]).setI 0x300#16).setV 0 63#8).setFb
      (screenOf [(63, 0)])))
    (fun t => allAre true t.fb [(63, 1)] && allAre false t.fb [(63, 0), (0, 0), (0, 1), (62, 1)] && t.getV 15 == 1#8) = true := by decide

/-! ### The cycle, the host and boot -/

/-- T-FETCH-2: an odd `PC`, the first byte the high half. -/
theorem test_fetch_odd : nextIs (step (prog 0x201#16 [0x61#8, 0x09#8])) (fun t => t.getV 1 == 9#8 && t.pc == 0x203#16) = true := by
  decide

/-- T-FETCH-5. -/
theorem test_fetch_fault : nextIs (step (prog 0xFFF#16 [0x60#8]))
    (fun t => t.pc == 0xFFF#16 && t.run == .halted && t.fault == some ⟨.addressOutOfRange, some 0xFFF#16, none, some 0x1000⟩) =
    true := by decide

/-- T-UNI-1. -/
theorem test_unrecognized : nextIs (step (prog 0x204#16 [0x12#8, 0x00#8]))
    (fun t => t.pc == 0x206#16 && t.run == .halted &&
      t.fault == some ⟨.unimplementedOpcode, some 0x204#16, some 0x1200#16, none⟩) = true := by decide

/-- T-CALL-5, second cycle: the font's first two bytes are fetched as `0xF090`. -/
theorem test_font_fetch : nextIs (step (State.reset.setPc 0#16))
    (fun t => t.fault == some ⟨.unimplementedOpcode, some 0#16, some 0xF090#16, none⟩) = true := by decide

/-- T-HOST-1, T-HOST-2: a tick takes 1 to 0 and leaves 0. -/
theorem test_tick : nextIs (step ((State.reset.setSt 1#8).setSchedule [.host .timerTick]))
    (fun t => t.st == 0#8 && t.dt == 0#8 && !t.soundActive) = true := by decide

/-- T-BOOT-2: a ROM of odd length, booted from `Halted`. -/
theorem test_boot : nextIs (step ((State.reset.setRun .halted).setSchedule [.host (.boot [0x60#8, 0x07#8, 0x00#8])]))
    (fun t => t.mem == [(0x200, 0x60#8), (0x201, 0x07#8)] && t.run == .running && t.pc == 0x200#16) = true := by
  decide +kernel

/-! ### Witnesses: states and operands that meet the hypotheses of each statement -/

theorem witness_DispatchFollowsOpcodeMap :
    dispatch (decodeFields 0x00E0#16) = some .cls ∧ dispatch (decodeFields 0x00EE#16) = some .ret ∧
    dispatch (decodeFields 0x2FFF#16) = some (.call 0xFFF#12) ∧
    dispatch (decodeFields 0x6FFF#16) = some (.ldVx 0xF#4 0xFF#8) ∧
    dispatch (decodeFields 0xA000#16) = some (.ldI 0x000#12) ∧
    dispatch (decodeFields 0xDFFF#16) = some (.drw 0xF#4 0xF#4 0xF#4) := by decide

theorem witness_EncodeOfDecodeIsIdentity : decode [0xD1#8, 0x2A#8, 0x07#8] = .ok (.drw 1#4 2#4 0xA#4, [0x07#8]) := rfl

theorem witness_ByteAccessIsBoundsChecked : (0x0FFF ≤ 0x0FFF) ∧ 0x0FFF < 0x1000 := by decide

theorem witness_ReadReturnsLatestWrite : (0x0FFF : Nat) ≤ 0x0FFF ∧ (0x0FFE : Nat) ≠ 0x0FFF := by decide

theorem witness_CanonicalMemories :
    ∃ m n : Memory, m ≠ [] ∧ Memory.wf defaultParams m ∧ Memory.wf defaultParams n ∧
      ∀ a, Memory.get defaultParams m a = Memory.get defaultParams n a :=
  ⟨[(0x000, 0x01#8), (0xFFF, 0x80#8)], [(0x000, 0x01#8), (0xFFF, 0x80#8)], by decide, by decide, by decide, fun _ => rfl⟩

theorem witness_StackIsLastInFirstOut :
    (∃ t, push (State.reset.setSp 11) 0x0302#16 = .ok t) ∧
    (State.reset.setSp 12).sp.val ≤ State.reset.params.stackCap.val := ⟨⟨_, rfl⟩, by decide⟩

theorem witness_RetPopsIntoPc : (State.reset.setSp 16).sp.val ≠ 0 ∧ State.reset.sp.val = 0 := by decide

theorem witness_CallPushesPcAndJumps :
    topNibble 0x2FFF#16 = 0x2#4 ∧ (State.reset.setSp 11).sp.val < State.reset.params.stackCap.val ∧
    State.reset.params.stackCap.val ≤ (State.reset.setSp 12).sp.val := by decide

theorem witness_LdVxWritesOneRegister : topNibble 0x6FFF#16 = 0x6#4 := by decide

theorem witness_LdIWritesIndex : topNibble 0xA000#16 = 0xA#4 := by decide

/-- `I = 0xFFF`, `V1 = 31`: one row, at the last address, as in T-DRW-9. -/
def lastRow : State := (withBytes State.reset 0xFFF [0x80#8]).setI 0xFFF#16

theorem witness_DrwMatchesClosedForm :
    (0 : Nat) = (lastRow.getV (regIndex 0#4)).toNat % 64 ∧
    (31 : Nat) = ((lastRow.setV 1 31#8).getV (regIndex 1#4)).toNat % 32 ∧
    (1 : Nat) = min (2#4).toNat (32 - 31) ∧
    (∀ r < 1, readByte (lastRow.setV 1 31#8) (0xFFF + r) = .ok ((fun _ => 0x80#8) r)) :=
  ⟨by decide, by decide, by decide, fun r h => by interval_cases r; rfl⟩

theorem witness_DrwFaultsOnFirstMissingRow :
    1 < min (2#4).toNat (32 - ((lastRow.setV 1 30#8).getV (regIndex 1#4)).toNat % 32) ∧
    0x0FFF < (lastRow.setV 1 30#8).ireg.toNat + 1 ∧ (∀ q < 1, (lastRow.setV 1 30#8).ireg.toNat + q ≤ 0x0FFF) := by decide

theorem witness_DrwTwiceRestoresScreen :
    ∃ t, exec (.drw 0#4 1#4 1#4) lastRow = .next t ∧
      (t.getV (regIndex 0#4)).toNat % 64 = (lastRow.getV (regIndex 0#4)).toNat % 64 ∧
      (t.getV (regIndex 1#4)).toNat % 32 = (lastRow.getV (regIndex 1#4)).toNat % 32 := ⟨_, rfl, by decide, by decide⟩

/-- `CALL 0x300` at `0x200`, `RET` at `0x300`, as in S4. -/
def callRet : State := withBytes (prog 0x200#16 [0x23#8, 0x00#8]) 0x300 [0x00#8, 0xEE#8]

theorem witness_CallThenReturnComesBack :
    callRet.run = .running ∧ callRet.schedule = [] ∧ callRet.sp.val < callRet.params.stackCap.val ∧
    readByte callRet callRet.pc.toNat = .ok 0x23#8 ∧ readByte callRet (callRet.pc.toNat + 1) = .ok 0x00#8 ∧
    decode [0x23#8, 0x00#8] = .ok (.call 0x300#12, []) ∧
    readByte callRet (0x300#12).toNat = .ok 0x00#8 ∧ readByte callRet ((0x300#12).toNat + 1) = .ok 0xEE#8 :=
  ⟨rfl, rfl, by decide, rfl, rfl, rfl, rfl, rfl⟩

/-- For ExecutorConfinesItsEffects, OnlyNamedInstructionsWriteEachRegister and TimerSetSetsTheNamedTimer: a `RET`. -/
theorem witness_exec_next : ∃ t, exec .ret (State.reset.setSp 1) = .next t ∧ t.sp ≠ (State.reset.setSp 1).sp :=
  ⟨_, rfl, by decide⟩

/-- The other clauses of OnlyNamedInstructionsWriteEachRegister: each register does change somewhere. -/
theorem witness_OnlyNamedInstructionsWriteEachRegister :
    (∃ t, exec (.ldI 0xFFF#12) State.reset = .next t ∧ t.ireg ≠ State.reset.ireg) ∧
    (∃ t, exec (.call 0xFFF#12) State.reset = .next t ∧ t.pc ≠ State.reset.pc ∧ t.stack ≠ State.reset.stack) ∧
    (∃ t, exec (.drw 0#4 0#4 1#4) State.reset = .next t ∧ t.fb ≠ State.reset.fb ∧ t.dirty ≠ State.reset.dirty) ∧
    (∃ t, exec (.ldVx 0xF#4 0xFF#8) State.reset = .next t ∧ t.getV 15 ≠ State.reset.getV 15) :=
  ⟨⟨_, rfl, by decide⟩, ⟨_, rfl, by decide, by decide⟩, ⟨_, rfl, by decide +kernel, by decide⟩, ⟨_, rfl, by decide⟩⟩

/-- For FaultsInExecutionArePrecise, EachFaultHasOneCause and TooLargeProgramHaltsAtBoot: a `RET` on an empty stack. -/
theorem witness_exec_fault : ∃ t f, exec .ret State.reset = .next t ∧ State.reset.run = .running ∧ t.run = .halted ∧
    State.reset.fault = none ∧ t.fault = some f := ⟨_, _, rfl, rfl, rfl, rfl, rfl⟩

/-- For EachFaultHasOneCause: a `CALL` at capacity, and a `DRW` whose second row does not exist. -/
theorem witness_EachFaultHasOneCause :
    (∃ t f, exec (.call 0xFFF#12) (State.reset.setSp 12) = .next t ∧ (State.reset.setSp 12).run = .running ∧
      (State.reset.setSp 12).fault = none ∧ t.fault = some f ∧ t.run = .halted) ∧
    (∃ t f, exec (.drw 0#4 1#4 2#4) lastRow = .next t ∧ lastRow.run = .running ∧ lastRow.fault = none ∧
      t.fault = some f ∧ t.run = .halted) :=
  ⟨⟨_, _, rfl, rfl, rfl, rfl, rfl⟩, ⟨_, _, rfl, rfl, rfl, rfl, rfl⟩⟩

/-- For FaultEntryLatchesAndHalts. -/
theorem witness_fault_none : State.reset.fault = none := rfl

theorem witness_StepRunsTheDecodedInstruction :
    callRet.run = .running ∧ readByte callRet callRet.pc.toNat = .ok 0x23#8 ∧
    readByte callRet (callRet.pc.toNat + 1) = .ok 0x00#8 ∧ decode [0x23#8, 0x00#8] = .ok (.call 0x300#12, []) ∧
    callRet.schedule = [] ∧ (callRet.setSchedule [.core]).schedule = .core :: [] := ⟨rfl, rfl, rfl, rfl, rfl, rfl⟩

theorem witness_AdvanceIsUnconditional :
    ∃ t, readByte callRet callRet.pc.toNat = .ok 0x23#8 ∧ readByte callRet (callRet.pc.toNat + 1) = .ok 0x00#8 ∧
      cycle callRet = .next t ∧ callRet.run = .running ∧ t.pc ≠ callRet.pc + 2#16 ∧
      dispatch (decodeFields (opcodeOf 0x23#8 0x00#8)) = some (.call 0x300#12) :=
  ⟨_, rfl, rfl, rfl, rfl, by decide, by decide⟩

/-- The halting clause of AdvanceIsUnconditional: a `RET` on an empty stack. -/
theorem witness_AdvanceIsUnconditional_halted :
    ∃ t, cycle (prog 0x400#16 [0x00#8, 0xEE#8]) = .next t ∧ (prog 0x400#16 [0x00#8, 0xEE#8]).run = .running ∧
      t.run = .halted := ⟨_, rfl, rfl, rfl⟩

theorem witness_UnrecognizedOpcodeFaults :
    readByte State.reset State.reset.pc.toNat = .ok 0x00#8 ∧
    readByte State.reset (State.reset.pc.toNat + 1) = .ok 0x00#8 ∧
    opcodeTable.find? (fun r => r.selects (opcodeOf 0x00#8 0x00#8)) = none := ⟨rfl, rfl, by decide⟩

/-- Both ends of the range: `PC = 0xFFF` and `PC = 0xFFFF`. -/
theorem witness_FetchFaultLeavesPc :
    0x0FFF ≤ (State.reset.setPc 0x0FFF#16).pc.toNat ∧ 0x0FFF ≤ (State.reset.setPc 0xFFFF#16).pc.toNat ∧
    (State.reset.setPc 0x0FFF#16).run = .running ∧ (State.reset.setPc 0x0FFF#16).schedule = [] := by decide

/-- A state of the invariant that is not the reset state: running off the end of memory. -/
theorem inv_at_end : (State.reset.setPc 0x1000#16).Inv where
  mem_wf := Memory.wf_nil _
  ireg_le := by decide
  pc_le := by decide
  sp_le := by decide
  stack_le := fun _ h => absurd h (Nat.not_lt_zero _)
  fault_halts := fun h => absurd rfl h

theorem witness_FetchFaultsOnlyAtTheEndOfMemory :
    (State.reset.setPc 0x1000#16).Inv ∧ fetch (State.reset.setPc 0x1000#16) = .error (.addressOutOfRange 0x1000) :=
  ⟨inv_at_end, rfl⟩

/-- For EveryStepKeepsTheInvariant and MemoryIsConstantBetweenBoots. -/
theorem witness_EveryStepKeepsTheInvariant :
    ∃ t, (State.reset.setPc 0x1000#16).Inv ∧ step (State.reset.setPc 0x1000#16) = .next t ∧
      ∀ rom rest, (State.reset.setPc 0x1000#16).schedule ≠ .host (.boot rom) :: rest :=
  ⟨_, inv_at_end, rfl, fun _ _ h => nomatch h⟩

theorem witness_TraceIsSentOncePerFetchedCycle :
    (∃ t, cycle State.reset = .next t ∧ fetch State.reset = .ok (0x00#8, 0x00#8)) ∧
    (∃ t r, cycle (State.reset.setPc 0x1000#16) = .next t ∧ fetch (State.reset.setPc 0x1000#16) = .error r) :=
  ⟨⟨_, rfl, rfl⟩, ⟨_, _, rfl, rfl⟩⟩

theorem witness_NoCycleUnlessRunning :
    (State.reset.setRun .paused).run = .paused ∧ (State.reset.setRun .halted).run = .halted ∧
    State.reset.schedule = [] ∧ (State.reset.setRun .halted).run ≠ .running ∧
    ((State.reset.setRun .halted).setSchedule [.core]).schedule = .core :: [] ∧
    ¬(State.reset.run = .halted ∧ State.reset.schedule = []) := by decide

/-- Two states that differ in what the host writes. -/
theorem witness_HostStateCannotAffectACycle :
    ∃ s', CoreAgrees State.reset ((State.reset.setDt 7#8).setDirty true) ∧ cycle State.reset = .next s' :=
  ⟨_, ⟨⟨rfl, rfl, rfl, ⟨rfl, rfl⟩, rfl, rfl, rfl⟩, ⟨rfl, rfl⟩⟩, rfl⟩

/-- For HostTurnIsOneTransaction and HaltRequestHaltsWithoutFault. -/
theorem witness_host_turn :
    (State.reset.setSchedule [.host .haltRequest]).schedule = .host .haltRequest :: [] := rfl

theorem witness_HostTransactionsKeepTheCore :
    (∀ rom, Transaction.timerTick ≠ .boot rom) ∧ Transaction.timerTick ≠ .pauseToggle ∧
    Transaction.timerTick ≠ .haltRequest ∧ Transaction.timerTick ≠ .dirtyClear :=
  ⟨fun _ h => (nomatch h), by decide, by decide, by decide⟩

theorem witness_KeysWriteCannotAffectExecution : ∃ t, exec (.ldVx 0xF#4 0xFF#8) State.reset = .next t := ⟨_, rfl⟩

theorem witness_PauseTogglesRunningAndPaused :
    State.reset.run = .running ∧ (State.reset.setRun .paused).run = .paused ∧
    (State.reset.setRun .halted).run = .halted := by decide

theorem witness_HaltedIsTerminalButForBoot :
    ∃ t, (State.reset.setRun .halted).run = .halted ∧
      step ((State.reset.setRun .halted).setSchedule [.host .pauseToggle]) = .next t ∧
      ∀ rom rest, ((State.reset.setRun .halted).setSchedule [.host .pauseToggle]).schedule ≠ .host (.boot rom) :: rest :=
  ⟨_, rfl, rfl, fun _ _ h => by cases h⟩

/-- For BootPlacesFontAndRom and TooLargeProgramHaltsAtBoot: the empty ROM and the largest. -/
theorem witness_rom_fits : ([] : List Byte).length ≤ 3584 ∧ (List.replicate 3584 0x01#8).length ≤ 3584 := by
  rw [List.length_replicate]; decide

/-- For TooLargeProgramHaltsAtBoot and TooLargeProgramWritesNoByte: one byte too many. -/
theorem witness_rom_too_large : 3584 < (List.replicate 3585 0x01#8).length := by
  rw [List.length_replicate]; decide

/-- The address clauses of ResetStateIsAsTheSpecSays, BootPlacesFontAndRom and TooLargeProgramWritesNoByte, at the ends
of their ranges. -/
theorem witness_boot_addresses :
    (80 ≤ 80 ∧ (0x0FFF : Nat) ≤ 0x0FFF) ∧ 79 < 80 ∧ 3583 < (List.replicate 3584 0x01#8).length ∧
    ((0x1FF : Nat) ≤ 0x0FFF ∧ (0x1FF < 0x200 ∨ 0x200 + 0 ≤ 0x1FF) ∧
      (0x1FF < defaultParams.fontBase.val ∨ defaultParams.fontBase.val + 80 ≤ 0x1FF)) := by
  rw [List.length_replicate]; decide

theorem witness_ZeroOpcodeIsTheGoodEnd :
    State.reset.run = .running ∧ State.reset.schedule = [] ∧ State.reset.fault = none ∧
    readByte State.reset State.reset.pc.toNat = .ok 0x00#8 ∧
    readByte State.reset (State.reset.pc.toNat + 1) = .ok 0x00#8 := ⟨rfl, rfl, rfl, rfl, rfl⟩

theorem witness_EveryRunTerminates : callRet.run = .running ∧ callRet.schedule = [] := ⟨rfl, rfl⟩

end Sys2Proof.Tests
end

/-! PROOFS of the family 10_state: the invariant of the machine, kept by one rule per state operation and then by the
meanings, the cycle, the boot and the host's transactions; the call stack as last in, first out; who writes each
register; and the state after reset. -/

namespace Sys2Proof.Machine

variable {s t : State}

@[simp] theorem markDirty_eq (s : State) : markDirty s = s.setDirty true := rfl

@[simp] theorem setCollision_eq (s : State) (hit : Bool) : setCollision s hit = s.setV vf (collisionByte hit) := rfl

/-! ### Reading back what an operation wrote -/

theorem State.getV_setV (s : State) (k j : Fin 16) (b : Byte) :
    (s.setV k b).getV j = if j = k then b else s.getV j := by
  simp only [State.getV, State.setV_v, Fin.getElem_fin, Vector.getElem_set, Fin.ext_iff, eq_comm]

/-- A write to `V[k]` changes no other register (R20). -/
theorem State.eq_of_getV_setV_ne {k j : Fin 16} {b : Byte} (h : (s.setV k b).getV j ≠ s.getV j) : j = k := by
  by_contra hne
  rw [State.getV_setV, if_neg hne] at h
  exact h rfl

theorem State.getV_congr (h : t.v = s.v) (k : Fin 16) : t.getV k = s.getV k := by
  simp only [State.getV, h]

theorem State.setStack_getElem (s : State) (k j : Fin 16) (a : Word) (d : Fin 17) :
    (s.setStack k a d).stack[j] = if j = k then a else s.stack[j] := by
  simp only [State.setStack_stack, Fin.getElem_fin, Vector.getElem_set, Fin.ext_iff, eq_comm]

/-- A 12-bit address in a 16-bit register is at most `0xFFF` (R6). -/
theorem addrOperand_le (nnn : Addr12) : (addrOperand nnn).toNat ≤ 0x0FFF := by
  simp only [addrOperand, BitVec.toNat_setWidth]
  omega

/-- A fetch that succeeds has read both bytes (R91). -/
theorem fetch_ok {b : Byte × Byte} (h : fetch s = .ok b) : s.pc.toNat + 1 < Config.memSize := by
  rcases fetch_cases s with ⟨hpc, _⟩ | ⟨_, he⟩ | ⟨_, he⟩
  · exact hpc
  all_goals rw [he] at h; cases h

/-! ### The invariant, one rule per operation -/

namespace State.Inv

theorem setI (h : s.Inv) {a : Word} (ha : a.toNat ≤ 0x0FFF) : (s.setI a).Inv := { h with ireg_le := ha }

theorem setPc (h : s.Inv) {a : Word} (ha : a.toNat ≤ 0x1000) : (s.setPc a).Inv := { h with pc_le := ha }

theorem setV (h : s.Inv) (k : Fin 16) (b : Byte) : (s.setV k b).Inv := { h with }

theorem setFb (h : s.Inv) (f : Screen) : (s.setFb f).Inv := { h with }

theorem setDirty (h : s.Inv) (b : Bool) : (s.setDirty b).Inv := { h with }

theorem setDt (h : s.Inv) (b : Byte) : (s.setDt b).Inv := { h with }

theorem setSt (h : s.Inv) (b : Byte) : (s.setSt b).Inv := { h with }

theorem setKeys (h : s.Inv) (k : Vector Bool 16) : (s.setKeys k).Inv := { h with }

theorem setSchedule (h : s.Inv) (l : List Turn) : (s.setSchedule l).Inv := { h with }

theorem emit (h : s.Inv) (o : Output) : (s.emit o).Inv := { h with }

/-- `RUN` may be set to anything that stays `Halted` where it was (R157). -/
theorem setRun (h : s.Inv) {r : RunState} (hr : s.run = .halted → r = .halted) : (s.setRun r).Inv :=
  { h with fault_halts := fun hf => hr (h.fault_halts hf) }

/-- Lowering the depth keeps every entry below it (R26, R27). -/
theorem setSp (h : s.Inv) {d : Fin 17} (hd : d.val ≤ s.sp.val) : (s.setSp d).Inv :=
  { h with
    sp_le := Nat.le_trans hd h.sp_le
    stack_le := fun k hk => h.stack_le k (Nat.lt_of_lt_of_le hk hd) }

/-- An entry pushed below capacity, in the range of `PC` (R25, R26). -/
theorem setStack (h : s.Inv) (hcap : s.sp.val < s.params.stackCap.val) (h16 : s.sp.val < 16) {a : Word}
    (ha : a.toNat ≤ 0x1000) : (s.setStack ⟨s.sp.val, h16⟩ a ⟨s.sp.val + 1, by omega⟩).Inv :=
  { h with
    sp_le := hcap
    stack_le := fun k hk => by
      rw [State.setStack_getElem]
      split
      · exact ha
      · rename_i hne
        have hlt : k.val < s.sp.val :=
          Nat.lt_of_le_of_ne (Nat.le_of_lt_succ hk) (fun he => hne (Fin.ext he))
        exact h.stack_le k hlt }

/-- A fault entry leaves everything the invariant speaks of, and halts (R155). -/
theorem faultedWith {f : FaultRecord} (h : s.Inv) (hf : FaultedWith s t f) : t.Inv where
  mem_wf := by rw [hf.core.params, hf.core.mem]; exact h.mem_wf
  ireg_le := by rw [hf.core.ireg]; exact h.ireg_le
  pc_le := by rw [hf.core.pc]; exact h.pc_le
  sp_le := by rw [hf.core.stack.sp, hf.core.params]; exact h.sp_le
  stack_le := by rw [hf.core.stack.sp, hf.core.stack.stack]; exact h.stack_le
  fault_halts := fun _ => hf.run

theorem takeFault (h : s.Inv) (r : Raise) (pc op : Option Word) : (takeFault s r pc op).Inv :=
  h.faultedWith (takeFault_faultedWith s r pc op)

/-- The advance stays within `0x1000` when both bytes of the opcode exist (R25, R92). -/
theorem fetched (h : s.Inv) (hpc : s.pc.toNat + 1 < Config.memSize) (op : Word) : (fetched s op).Inv :=
  (h.emit _).setPc (by
    rw [Config.memSize_eq] at hpc
    simp only [State.emit_pc, BitVec.toNat_add, BitVec.toNat_ofNat]
    omega)

end State.Inv

/-- The invariant holds at reset, whatever the parameters (R36). -/
theorem State.resetWith_inv (p : Params) : (State.resetWith p).Inv where
  mem_wf := Memory.wf_nil p
  ireg_le := Nat.zero_le _
  pc_le := by simp only [State.resetWith]; decide
  sp_le := Nat.zero_le _
  stack_le := fun _ hk => absurd hk (Nat.not_lt_zero _)
  fault_halts := fun hf => absurd rfl hf

/-! ### The invariant is kept by every step -/

theorem exec_keeps_inv {i : Instr} (h : s.Inv) (he : exec i s = .next t) : t.Inv := by
  rcases exec_cases he with ⟨r, hf, -⟩ | ⟨-, rfl⟩ | ⟨-, hsp, rfl⟩ | ⟨nnn, -, hcap, h16, rfl⟩ | ⟨x, nn, -, rfl⟩ |
    ⟨nnn, -, rfl⟩ | ⟨x, y, n, -, -, c, -, rfl⟩
  · exact h.faultedWith hf
  · exact (h.setFb _).setDirty true
  · have hlt : s.sp.val - 1 < s.sp.val := by omega
    exact (h.setSp (Nat.sub_le _ _)).setPc (h.stack_le ⟨s.sp.val - 1, by omega⟩ hlt)
  · exact (h.setStack hcap h16 h.pc_le).setPc (Nat.le_trans (addrOperand_le nnn) (by decide))
  · exact h.setV _ _
  · exact h.setI (addrOperand_le nnn)
  · exact ((h.setFb _).setV _ _).setDirty true

theorem cycle_keeps_inv (h : s.Inv) (hc : cycle s = .next t) : t.Inv := by
  rcases cycle_cases s with ⟨r, -, he⟩ | ⟨b0, b1, hf, -, he⟩ | ⟨b0, b1, i, hf, -, he⟩ <;> rw [he] at hc
  · cases hc; exact h.takeFault _ _ _
  · cases hc; exact (h.fetched (fetch_ok hf) _).takeFault _ _ _
  · exact exec_keeps_inv (h.fetched (fetch_ok hf) _) hc

/-- A boot meets the invariant from any state: it starts from reset, and its memory is canonical (R180 to R183). -/
theorem boot_inv (s : State) (rom : List Byte) : (boot s rom).Inv := by
  have h0 := State.resetWith_inv s.params
  rcases boot_cases s rom with ⟨-, m, hm, -, hb⟩ | ⟨-, m, hm, -, hb⟩ <;> rw [hb]
  · exact { h0 with mem_wf := hm }
  · exact { h0 with mem_wf := hm, fault_halts := fun _ => rfl }

theorem hostEffect_keeps_inv (h : s.Inv) (tr : Transaction) : (hostEffect s tr).Inv := by
  cases tr with
  | boot rom => exact boot_inv s rom
  | timerTick => exact (h.setDt _).setSt _
  | timerSet tm b =>
    cases tm with
    | delay => exact h.setDt b
    | sound => exact h.setSt b
  | keysWrite k => exact h.setKeys k
  | dirtyClear => exact h.setDirty false
  | pauseToggle => exact h.setRun (fun hr => by rw [hr]; rfl)
  | haltRequest => exact h.setRun (fun _ => rfl)
  | timerGet _ => exact h
  | fbRead _ _ => exact h
  | dirtyRead => exact h
  | statusRead => exact h

theorem transact_keeps_inv (h : s.Inv) (tr : Transaction) : (transact s tr).Inv := by
  unfold transact
  split
  · exact hostEffect_keeps_inv h tr
  · exact (hostEffect_keeps_inv h tr).emit _

theorem step_keeps_inv (h : s.Inv) (hs : step s = .next t) : t.Inv := by
  rcases step_cases s with ⟨-, -, he⟩ | ⟨-, -, he⟩ | ⟨-, -, he⟩ | ⟨rest, -, -, he⟩ | ⟨rest, -, -, he⟩ |
    ⟨tr, rest, -, he⟩ <;> rw [he] at hs
  · exact cycle_keeps_inv h hs
  · cases hs; exact h
  · cases hs
  · exact cycle_keeps_inv (h.setSchedule rest) hs
  · cases hs; exact h.setSchedule rest
  · cases hs; exact transact_keeps_inv (h.setSchedule rest) tr

/-! ### The call stack -/

/-- What a successful `Push` leaves (R26). -/
theorem push_ok {a : Word} (h : push s a = .ok t) :
    ∃ h16 : s.sp.val < 16, t = s.setStack ⟨s.sp.val, h16⟩ a ⟨s.sp.val + 1, by omega⟩ := by
  rcases push_cases s a with ⟨-, h16, hp⟩ | ⟨-, hp⟩ <;> rw [hp] at h <;> cases h
  exact ⟨h16, rfl⟩

theorem push_eq_stackOverflow_iff (s : State) (a : Word) :
    push s a = .error .stackOverflow ↔ s.params.stackCap.val ≤ s.sp.val := by
  rcases push_cases s a with ⟨hlt, _, hp⟩ | ⟨hle, hp⟩
  · simp only [hp, reduceCtorEq, false_iff, Nat.not_le, hlt]
  · simp only [hp, hle]

theorem pop_eq_stackUnderflow_iff (s : State) : pop s = .error .stackUnderflow ↔ s.sp.val = 0 := by
  rcases pop_cases s with ⟨hne, hp⟩ | ⟨h0, hp⟩
  · rw [hp]; simpa using hne
  · rw [hp]; simpa using h0

/-- A `Pop` takes the entry that was just pushed, and gives the depth back (R26, R27). -/
theorem pop_setStack (s : State) (h16 : s.sp.val < 16) (a : Word) :
    pop (s.setStack ⟨s.sp.val, h16⟩ a ⟨s.sp.val + 1, by omega⟩) =
      .ok (a, (s.setStack ⟨s.sp.val, h16⟩ a ⟨s.sp.val + 1, by omega⟩).setSp s.sp) := by
  rcases pop_cases (s.setStack ⟨s.sp.val, h16⟩ a ⟨s.sp.val + 1, by omega⟩) with ⟨-, hp⟩ | ⟨h0, -⟩
  · rw [hp]; simp
  · exact absurd h0 (Nat.succ_ne_zero _)

/-! ### Memory after reset -/

/-- The reset contents hold the font at `FONT_BASE` (R56, R181). -/
theorem Memory.unlisted_font (p : Params) {d : Nat} (hd : d < Config.fontLen) :
    Memory.unlisted p (p.fontBase.val + d) = p.fontTable[d] := by
  simp [Memory.unlisted, hd]

/-- The reset contents are `0x00` outside the font (R36, D3). -/
theorem Memory.unlisted_outside_font (p : Params) {a : Nat}
    (ha : a < p.fontBase.val ∨ p.fontBase.val + Config.fontLen ≤ a) : Memory.unlisted p a = 0x00#8 :=
  dif_neg (by omega)

theorem readByte_resetWith (p : Params) {a : Nat} (ha : a < Config.memSize) :
    readByte (State.resetWith p) a = .ok (Memory.unlisted p a) := by
  rcases readByte_cases (State.resetWith p) a with ⟨-, hr⟩ | ⟨hle, -⟩
  · exact hr
  · omega

/-! ### The obligations of the family -/

/-- Settles O50: `step_keeps_inv`, by the cases of a step. -/
theorem everyStepKeepsTheInvariant : Obligations.EveryStepKeepsTheInvariant :=
  fun _ _ h hs => step_keeps_inv h hs

/-- Settles O11, by what `Push` and `Pop` can answer. -/
theorem stackIsLastInFirstOut : Obligations.StackIsLastInFirstOut := by
  refine ⟨fun s t a h => ?_, fun s a hle => ?_, pop_eq_stackUnderflow_iff⟩
  · obtain ⟨h16, rfl⟩ := push_ok h
    refine ⟨rfl, fun k hk => ?_, _, pop_setStack s h16 a, rfl, rfl⟩
    rw [State.setStack_getElem, if_neg (fun he => by simp [he] at hk)]
  · rw [push_eq_stackOverflow_iff]
    omega

/-- Settles O23, by the cases of an instruction: a fault writes no register, and each effect writes its own. -/
theorem onlyNamedInstructionsWriteEachRegister : Obligations.OnlyNamedInstructionsWriteEachRegister := by
  intro i s t h
  rcases exec_cases h with ⟨r, hf, -⟩ | ⟨rfl, rfl⟩ | ⟨rfl, -, rfl⟩ | ⟨nnn, rfl, -, h16, rfl⟩ | ⟨x, nn, rfl, rfl⟩ |
    ⟨nnn, rfl, rfl⟩ | ⟨x, y, n, rfl, -, c, -, rfl⟩
  · obtain ⟨hv, hireg, hpc, ⟨hsp, hstack⟩, hfb, -, -⟩ := hf.core
    simp [hireg, hpc, hsp, hstack, hfb, hf.dirty, State.getV_congr hv]
  · simp [State.getV]
  · simp [State.getV]
  · simp [State.getV]
  · refine ⟨by simp, by simp, by simp, by simp, by simp, by simp, fun k hk => .inl ⟨x, nn, rfl, ?_⟩⟩
    rw [State.eq_of_getV_setV_ne hk]; rfl
  · simp [State.getV]
  · refine ⟨by simp, by simp, by simp, by simp, by simp, by simp, fun k hk => .inr ⟨?_, x, y, n, rfl⟩⟩
    exact State.eq_of_getV_setV_ne (s := s.setFb c.fb) hk

/-- Settles O31: of the two ways a fetch fails, the invariant leaves the ones that end on address `0x1000`. -/
theorem fetchFaultsOnlyAtTheEndOfMemory : Obligations.FetchFaultsOnlyAtTheEndOfMemory := by
  intro s r hinv hf
  have hle := hinv.pc_le
  rcases fetch_cases s with ⟨-, he⟩ | ⟨hpc, he⟩ | ⟨hpc, he⟩ <;> rw [he] at hf <;> cases hf
  · have hlast : s.pc.toNat = 0x0FFF := Nat.succ.inj hpc
    exact ⟨rfl, .inl (BitVec.eq_of_toNat_eq hlast)⟩
  · have hend : s.pc.toNat = 0x1000 := Nat.le_antisymm hle hpc
    exact ⟨congrArg _ hend, .inr (BitVec.eq_of_toNat_eq hend)⟩

/-- Settles O49. -/
theorem invariantHoldsAtReset : Obligations.InvariantHoldsAtReset :=
  ⟨State.resetWith_inv defaultParams, State.resetWith_inv⟩

/-- Settles O45: the registers are replicated zeros, and memory reads as the font table over `0x00`. -/
theorem resetStateIsAsTheSpecSays : Obligations.ResetStateIsAsTheSpecSays := by
  refine ⟨fun k => ?_, rfl, rfl, rfl, fun k => ?_, rfl, rfl, fun k => ?_, Screen.pixel_blank, rfl, rfl, rfl, rfl,
    fun a h80 ha => ?_, fun d hd => ?_⟩
  · simp [State.getV, State.reset, State.resetWith]
  · simp [State.reset, State.resetWith]
  · simp [State.reset, State.resetWith]
  · have hrange : a < Config.memSize := by rw [Config.memSize_eq]; omega
    have hzero := Memory.unlisted_outside_font defaultParams (a := a) (.inr (by simpa [defaultParams] using h80))
    exact (readByte_resetWith defaultParams hrange).trans (congrArg _ hzero)
  · have hrange : d < Config.memSize := by rw [Config.memSize_eq]; omega
    have hfont := Memory.unlisted_font defaultParams hd
    rw [show defaultParams.fontBase.val = 0 from rfl, Nat.zero_add] at hfont
    exact (readByte_resetWith defaultParams hrange).trans (congrArg _ hfont)

end Sys2Proof.Machine

/-! PROOFS of the family 20_memory: what a bounds-checked access answers on each side of the bound; a canonical memory
as the set of its cells; and memory and the parameters kept by everything but a boot. -/

namespace Sys2Proof.Machine

variable {s t : State}

/-! ### Bounds-checked access -/

theorem readByte_of_lt {a : Nat} (ha : a < Config.memSize) : readByte s a = .ok (Memory.get s.params s.mem a) :=
  if_pos ha

theorem readByte_of_ge {a : Nat} (ha : Config.memSize ≤ a) : readByte s a = .error (.addressOutOfRange a) :=
  if_neg (Nat.not_lt.2 ha)

theorem writeByte_of_lt {a : Nat} (ha : a < Config.memSize) (b : Byte) :
    writeByte s a b = .ok (s.setMem (Memory.set s.params s.mem a b)) :=
  if_pos ha

theorem writeByte_of_ge {a : Nat} (ha : Config.memSize ≤ a) (b : Byte) :
    writeByte s a b = .error (.addressOutOfRange a) :=
  if_neg (Nat.not_lt.2 ha)

theorem readByte_setMem_set_same {a : Nat} (ha : a < Config.memSize) (b : Byte) :
    readByte (s.setMem (Memory.set s.params s.mem a b)) a = .ok b := by
  rw [readByte_of_lt ha, State.setMem_params, State.setMem_mem, Memory.get_set, if_pos rfl]

theorem readByte_setMem_set_ne {a c : Nat} (hc : c ≠ a) (b : Byte) :
    readByte (s.setMem (Memory.set s.params s.mem a b)) c = readByte s c := by
  simp only [readByte, State.setMem_params, State.setMem_mem, Memory.get_set, if_neg hc]

/-! ### A canonical memory as the set of its cells -/

/-- With every address listed once, the lookup finds exactly the listed cells. -/
theorem Memory.lookup_eq_some_iff {m : Memory} (hm : m.Pairwise (fun c d => c.1 < d.1)) (a : Nat) (b : Byte) :
    Memory.lookup m a = some b ↔ (a, b) ∈ m := by
  induction m with
  | nil => simp [Memory.lookup]
  | cons c m ih =>
    obtain ⟨hc, hm'⟩ := List.pairwise_cons.1 hm
    rw [Memory.lookup, List.mem_cons, ← ih hm']
    split
    · rename_i heq
      have hnot : Memory.lookup m a ≠ some b := fun hl =>
        absurd (hc _ ((ih hm').1 hl)) (by simp [heq])
      simp [hnot, Prod.ext_iff, heq, eq_comm]
    · rename_i hne
      simp [Prod.ext_iff, Ne.symm hne]

/-- The cells of a canonical memory are the addresses that do not read as the reset contents, each with the byte it
reads: the list is fixed by what memory holds (log entry 10). -/
theorem Memory.mem_iff_get {p : Params} {m : Memory} (hm : Memory.wf p m) (a : Nat) (b : Byte) :
    (a, b) ∈ m ↔ Memory.get p m a = b ∧ b ≠ Memory.unlisted p a := by
  obtain ⟨hsorted, hcells⟩ := hm
  rw [← Memory.lookup_eq_some_iff hsorted, Memory.get]
  cases hl : Memory.lookup m a with
  | none => simpa using fun h : Memory.unlisted p a = b => h.symm
  | some d =>
    have hd : d ≠ Memory.unlisted p a := (hcells _ ((Memory.lookup_eq_some_iff hsorted a d).1 hl)).2
    simpa using fun h : d = b => h ▸ hd

/-- Two lists of cells in rising order of address with the same cells are the same list. -/
theorem Memory.eq_of_mem_iff {m n : Memory} (hm : m.Pairwise (fun c d => c.1 < d.1))
    (hn : n.Pairwise (fun c d => c.1 < d.1)) (h : ∀ c, c ∈ m ↔ c ∈ n) : m = n :=
  have : Std.Irrefl (fun c d : Host.Cell => c.1 < d.1) := ⟨fun c => Nat.lt_irrefl c.1⟩
  have : Std.Antisymm (fun c d : Host.Cell => c.1 < d.1) := ⟨fun _ _ h h' => absurd h' (Nat.lt_asymm h)⟩
  hm.eq_of_mem_iff hn h

/-! ### What keeps memory and the parameters -/

/-- No instruction writes memory or anything that only the host reaches (R57, R94). -/
theorem exec_keeps_mem_and_hostSide {i : Instr} (h : exec i s = .next t) : t.mem = s.mem ∧ KeepsHostSide s t := by
  rcases exec_cases h with ⟨r, hf, -⟩ | ⟨-, rfl⟩ | ⟨-, -, rfl⟩ | ⟨nnn, -, -, h16, rfl⟩ | ⟨x, nn, -, rfl⟩ |
    ⟨nnn, -, rfl⟩ | ⟨x, y, n, -, -, c, -, rfl⟩
  · exact ⟨hf.core.mem, hf.host⟩
  all_goals exact ⟨rfl, rfl, rfl, rfl, rfl, rfl, rfl⟩

theorem cycle_keeps_params_and_mem (h : cycle s = .next t) : t.params = s.params ∧ t.mem = s.mem := by
  rcases cycle_cases s with ⟨r, -, he⟩ | ⟨b0, b1, -, -, he⟩ | ⟨b0, b1, i, -, -, he⟩ <;> rw [he] at h
  · cases h
    obtain ⟨hcore, -⟩ := takeFault_faultedWith s r (some s.pc) none
    exact ⟨hcore.params, hcore.mem⟩
  · cases h
    obtain ⟨hcore, -⟩ := takeFault_faultedWith (fetched s (opcodeOf b0 b1)) (.unimplementedOpcode (opcodeOf b0 b1))
      (some s.pc) (some (opcodeOf b0 b1))
    exact ⟨hcore.params, hcore.mem⟩
  · obtain ⟨hmem, hhost⟩ := exec_keeps_mem_and_hostSide h
    exact ⟨hhost.params, hmem⟩

/-- A boot takes the parameters as they are (R35, R180). -/
@[simp] theorem boot_params (s : State) (rom : List Byte) : (boot s rom).params = s.params := by
  rcases boot_cases s rom with ⟨-, m, -, -, hb⟩ | ⟨-, m, -, -, hb⟩ <;> rw [hb] <;> rfl

@[simp] theorem State.setTimer_params (s : State) (tm : Timer) (b : Byte) : (s.setTimer tm b).params = s.params := by
  cases tm <;> rfl

@[simp] theorem State.setTimer_mem (s : State) (tm : Timer) (b : Byte) : (s.setTimer tm b).mem = s.mem := by
  cases tm <;> rfl

/-- The answer of a transaction goes to the log alone (R160, log entry 7). -/
theorem transact_eq (s : State) (tr : Transaction) :
    transact s tr = { hostEffect s tr with out := (transact s tr).out } := by
  unfold transact
  split <;> rfl

theorem hostEffect_params (s : State) (tr : Transaction) : (hostEffect s tr).params = s.params := by
  cases tr <;> simp [hostEffect]

/-- Boot is the only transaction that writes memory (R58, D17). -/
theorem hostEffect_mem {tr : Transaction} (hboot : ∀ rom, tr ≠ .boot rom) : (hostEffect s tr).mem = s.mem := by
  cases tr with
  | boot rom => exact absurd rfl (hboot rom)
  | _ => simp [hostEffect]

theorem transact_params (s : State) (tr : Transaction) : (transact s tr).params = s.params := by
  rw [transact_eq]
  exact hostEffect_params s tr

theorem transact_mem {tr : Transaction} (hboot : ∀ rom, tr ≠ .boot rom) : (transact s tr).mem = s.mem := by
  rw [transact_eq]
  exact hostEffect_mem hboot

/-! ### The obligations of the family -/

/-- Settles O8, by what an access answers below the bound and from it on. -/
theorem byteAccessIsBoundsChecked : Obligations.ByteAccessIsBoundsChecked := by
  refine fun s a b => ⟨fun hle => ?_, fun hgt => ⟨readByte_of_ge hgt, writeByte_of_ge hgt b⟩⟩
  have ha : a < Config.memSize := Nat.lt_succ_of_le hle
  exact ⟨⟨_, readByte_of_lt ha⟩, _, writeByte_of_lt ha b⟩

/-- Settles O9: the write sets memory alone, and memory reads as it was but at the one address. -/
theorem readReturnsLatestWrite : Obligations.ReadReturnsLatestWrite := by
  intro s a b hle
  have ha : a < Config.memSize := Nat.lt_succ_of_le hle
  exact ⟨_, writeByte_of_lt ha b, readByte_setMem_set_same ha b, fun c hc => readByte_setMem_set_ne hc b,
    rfl, rfl, rfl, ⟨rfl, rfl⟩, ⟨rfl, rfl⟩, ⟨rfl, rfl⟩, ⟨rfl, rfl, rfl, rfl, rfl, rfl⟩⟩

/-- Settles O10: what a canonical memory reads fixes its cells, and their order is fixed by the addresses. -/
theorem canonicalMemoriesAreEqualWhenTheyReadAlike : Obligations.CanonicalMemoriesAreEqualWhenTheyReadAlike := by
  intro p m n hm hn hget
  refine Memory.eq_of_mem_iff hm.1 hn.1 fun ⟨a, b⟩ => ?_
  rw [Memory.mem_iff_get hm, Memory.mem_iff_get hn, hget]

/-- Settles O51, by the cases of a step: a cycle, a turn with no cycle, or a transaction, of which only boot writes
memory. -/
theorem memoryIsConstantBetweenBoots : Obligations.MemoryIsConstantBetweenBoots := by
  intro s t hs
  rcases step_cases s with ⟨-, -, he⟩ | ⟨-, -, he⟩ | ⟨-, -, he⟩ | ⟨rest, -, -, he⟩ | ⟨rest, -, -, he⟩ |
    ⟨tr, rest, hsched, he⟩ <;> rw [he] at hs
  · obtain ⟨hparams, hmem⟩ := cycle_keeps_params_and_mem hs
    exact ⟨hparams, fun _ => hmem⟩
  · cases hs; exact ⟨rfl, fun _ => rfl⟩
  · cases hs
  · obtain ⟨hparams, hmem⟩ := cycle_keeps_params_and_mem hs
    exact ⟨hparams, fun _ => hmem⟩
  · cases hs; exact ⟨rfl, fun _ => rfl⟩
  · cases hs
    refine ⟨transact_params (s.setSchedule rest) tr, fun hboot => transact_mem (s := s.setSchedule rest) fun rom => ?_⟩
    rintro rfl
    exact hboot rom rest hsched

end Sys2Proof.Machine

/-! PROOFS of the family 30_encoding: the opcode, its halves and its fields as numbers; an instruction's word as the sum
of its fields; dispatch and the encoder as inverses of each other, carried over to bytes; and the opcode map, whose rows
never overlap. -/

namespace Sys2Proof

/-! ### An opcode, its halves and its fields as numbers (R55, R71) -/

/-- A field shifted to bit `k` adds `2 ^ k` times its value to a word that is zero up to the field's end. -/
theorem toNat_or_shiftLeft {hi : Word} {w k : Nat} (f : BitVec w) (hk : w + k ≤ 16) (hhi : 2 ^ (w + k) ∣ hi.toNat) :
    (hi ||| f.setWidth 16 <<< k).toNat = hi.toNat + f.toNat * 2 ^ k := by
  have hlt : f.toNat * 2 ^ k < 2 ^ (w + k) := by
    rw [Nat.pow_add]; exact Nat.mul_lt_mul_of_pos_right f.isLt (Nat.two_pow_pos k)
  have hle : 2 ^ (w + k) ≤ 2 ^ 16 := Nat.pow_le_pow_right (by decide) hk
  have hshift : (f.setWidth 16 <<< k : Word).toNat = f.toNat * 2 ^ k := by
    rw [BitVec.toNat_shiftLeft, BitVec.toNat_setWidth_of_le (by omega), Nat.shiftLeft_eq, Nat.mod_eq_of_lt (by omega)]
  obtain ⟨a, ha⟩ := hhi
  rw [BitVec.toNat_or, hshift, ha, Nat.two_pow_add_eq_or_of_lt hlt]

/-- The lowest field adds its value to a word that is zero up to the field's end. -/
theorem toNat_or_setWidth {hi : Word} {w : Nat} (f : BitVec w) (hw : w ≤ 16) (hhi : 2 ^ w ∣ hi.toNat) :
    (hi ||| f.setWidth 16).toNat = hi.toNat + f.toNat := by
  simpa using toNat_or_shiftLeft (k := 0) f hw hhi

/-- A field of `w` bits from bit `k` on is the opcode shifted and masked, as R71 writes it. -/
theorem setWidth_extractLsb' (op : Word) (k : Nat) {w : Nat} (hw : w ≤ 16) :
    (op.extractLsb' k w).setWidth 16 = (op >>> k) &&& BitVec.ofNat 16 (2 ^ w - 1) := by
  have hmask : 2 ^ w - 1 < 2 ^ 16 :=
    (Nat.sub_lt (Nat.two_pow_pos w) Nat.one_pos).trans_le (Nat.pow_le_pow_right (by decide) hw)
  apply BitVec.eq_of_toNat_eq
  rw [BitVec.toNat_setWidth_of_le hw, BitVec.extractLsb'_toNat, BitVec.toNat_and, BitVec.toNat_ushiftRight,
    BitVec.toNat_ofNat, Nat.mod_eq_of_lt hmask, Nat.and_two_pow_sub_one_eq_mod]

@[simp] theorem topNibble_toNat (op : Word) : (topNibble op).toNat = op.toNat / 4096 := by
  rw [topNibble, BitVec.extractLsb'_toNat, Nat.shiftRight_eq_div_pow]; omega

@[simp] theorem highByte_toNat (op : Word) : (highByte op).toNat = op.toNat / 256 := by
  rw [highByte, BitVec.extractLsb'_toNat, Nat.shiftRight_eq_div_pow]; omega

@[simp] theorem lowByte_toNat (op : Word) : (lowByte op).toNat = op.toNat % 256 :=
  BitVec.extractLsb'_toNat 0 8 op

@[simp] theorem decodeFields_nnn_toNat (op : Word) : (decodeFields op).nnn.toNat = op.toNat % 4096 :=
  BitVec.extractLsb'_toNat 0 12 op

@[simp] theorem decodeFields_nn_toNat (op : Word) : (decodeFields op).nn.toNat = op.toNat % 256 :=
  BitVec.extractLsb'_toNat 0 8 op

@[simp] theorem decodeFields_n_toNat (op : Word) : (decodeFields op).n.toNat = op.toNat % 16 :=
  BitVec.extractLsb'_toNat 0 4 op

@[simp] theorem decodeFields_x_toNat (op : Word) : (decodeFields op).x.toNat = op.toNat / 256 % 16 := by
  rw [decodeFields, BitVec.extractLsb'_toNat, Nat.shiftRight_eq_div_pow]

@[simp] theorem decodeFields_y_toNat (op : Word) : (decodeFields op).y.toNat = op.toNat / 16 % 16 := by
  rw [decodeFields, BitVec.extractLsb'_toNat, Nat.shiftRight_eq_div_pow]

@[simp] theorem opcodeOf_toNat (b0 b1 : Byte) : (opcodeOf b0 b1).toNat = b0.toNat * 256 + b1.toNat := by
  have hhi : (b0.setWidth 16 <<< 8 : Word).toNat = b0.toNat * 256 := by
    simpa using toNat_or_shiftLeft (hi := 0#16) (k := 8) b0 (by decide) (by decide)
  rw [opcodeOf, toNat_or_setWidth b1 (by decide) (by omega), hhi]

@[simp] theorem opcodeOf_highByte_lowByte (op : Word) : opcodeOf (highByte op) (lowByte op) = op := by
  apply BitVec.eq_of_toNat_eq; simp only [opcodeOf_toNat, highByte_toNat, lowByte_toNat]; omega

@[simp] theorem highByte_opcodeOf (b0 b1 : Byte) : highByte (opcodeOf b0 b1) = b0 := by
  apply BitVec.eq_of_toNat_eq; simp only [highByte_toNat, opcodeOf_toNat]; omega

@[simp] theorem lowByte_opcodeOf (b0 b1 : Byte) : lowByte (opcodeOf b0 b1) = b1 := by
  apply BitVec.eq_of_toNat_eq; simp only [lowByte_toNat, opcodeOf_toNat]; omega

/-! ### An instruction's word as the sum of its fields (R73, R78) -/

theorem encode_call_toNat (nnn : Addr12) : (encode (.call nnn)).toNat = 0x2000 + nnn.toNat :=
  toNat_or_setWidth nnn (by decide) (by decide)

theorem encode_ldI_toNat (nnn : Addr12) : (encode (.ldI nnn)).toNat = 0xA000 + nnn.toNat :=
  toNat_or_setWidth nnn (by decide) (by decide)

theorem encode_ldVx_toNat (x : Nibble) (nn : Byte) :
    (encode (.ldVx x nn)).toNat = 0x6000 + x.toNat * 256 + nn.toNat := by
  have hx : (0x6000#16 ||| x.setWidth 16 <<< 8).toNat = 0x6000 + x.toNat * 256 :=
    toNat_or_shiftLeft x (by decide) (by decide)
  rw [encode, toNat_or_setWidth nn (by decide) (by omega), hx]

theorem encode_drw_toNat (x y n : Nibble) :
    (encode (.drw x y n)).toNat = 0xD000 + x.toNat * 256 + y.toNat * 16 + n.toNat := by
  have hx : (0xD000#16 ||| x.setWidth 16 <<< 8).toNat = 0xD000 + x.toNat * 256 :=
    toNat_or_shiftLeft x (by decide) (by decide)
  have hy : (0xD000#16 ||| x.setWidth 16 <<< 8 ||| y.setWidth 16 <<< 4).toNat =
      0xD000 + x.toNat * 256 + y.toNat * 16 := by
    rw [← hx]; exact toNat_or_shiftLeft y (by decide) (by omega)
  rw [encode, toNat_or_setWidth n (by decide) (by omega), hy]

/-! ### Which opcode is an instruction's word (R71, R73) -/

theorem encode_call_eq_iff {nnn : Addr12} {op : Word} :
    encode (.call nnn) = op ↔ topNibble op = 0x2#4 ∧ (decodeFields op).nnn = nnn := by
  simp only [← BitVec.toNat_inj, encode_call_toNat, topNibble_toNat, decodeFields_nnn_toNat, BitVec.toNat_ofNat]
  omega

theorem encode_ldVx_eq_iff {x : Nibble} {nn : Byte} {op : Word} :
    encode (.ldVx x nn) = op ↔ topNibble op = 0x6#4 ∧ (decodeFields op).x = x ∧ (decodeFields op).nn = nn := by
  simp only [← BitVec.toNat_inj, encode_ldVx_toNat, topNibble_toNat, decodeFields_x_toNat, decodeFields_nn_toNat,
    BitVec.toNat_ofNat]
  omega

theorem encode_ldI_eq_iff {nnn : Addr12} {op : Word} :
    encode (.ldI nnn) = op ↔ topNibble op = 0xA#4 ∧ (decodeFields op).nnn = nnn := by
  simp only [← BitVec.toNat_inj, encode_ldI_toNat, topNibble_toNat, decodeFields_nnn_toNat, BitVec.toNat_ofNat]
  omega

theorem encode_drw_eq_iff {x y n : Nibble} {op : Word} :
    encode (.drw x y n) = op ↔
      topNibble op = 0xD#4 ∧ (decodeFields op).x = x ∧ (decodeFields op).y = y ∧ (decodeFields op).n = n := by
  simp only [← BitVec.toNat_inj, encode_drw_toNat, topNibble_toNat, decodeFields_x_toNat, decodeFields_y_toNat,
    decodeFields_n_toNat, BitVec.toNat_ofNat]
  omega

/-! ### Dispatch and the encoder are inverses (R73 to R76) -/

/-- Outside family 0 the top nibble alone picks the instruction (R74). -/
theorem dispatch_of_topNibble {op : Word} {k : Nibble} (hk : topNibble op = k) (h0 : k ≠ 0x0#4) :
    dispatch (decodeFields op) =
      if k = 0x2#4 then some (.call (decodeFields op).nnn)
      else if k = 0x6#4 then some (.ldVx (decodeFields op).x (decodeFields op).nn)
      else if k = 0xA#4 then some (.ldI (decodeFields op).nnn)
      else if k = 0xD#4 then some (.drw (decodeFields op).x (decodeFields op).y (decodeFields op).n)
      else none := by
  subst hk
  have hcls : op ≠ 0x00E0#16 := fun h => h0 (congrArg topNibble h)
  have hret : op ≠ 0x00EE#16 := fun h => h0 (congrArg topNibble h)
  exact (if_neg hcls).trans (if_neg hret)

theorem dispatch_eq_call {op : Word} (h : topNibble op = 0x2#4) :
    dispatch (decodeFields op) = some (.call (decodeFields op).nnn) :=
  dispatch_of_topNibble h (by decide)

theorem dispatch_eq_ldVx {op : Word} (h : topNibble op = 0x6#4) :
    dispatch (decodeFields op) = some (.ldVx (decodeFields op).x (decodeFields op).nn) :=
  dispatch_of_topNibble h (by decide)

theorem dispatch_eq_ldI {op : Word} (h : topNibble op = 0xA#4) :
    dispatch (decodeFields op) = some (.ldI (decodeFields op).nnn) :=
  dispatch_of_topNibble h (by decide)

theorem dispatch_eq_drw {op : Word} (h : topNibble op = 0xD#4) :
    dispatch (decodeFields op) = some (.drw (decodeFields op).x (decodeFields op).y (decodeFields op).n) :=
  dispatch_of_topNibble h (by decide)

/-- The opcode of an instruction dispatches to it, with its operands as they were (R73, R74). -/
theorem dispatch_encode (i : Instr) : dispatch (decodeFields (encode i)) = some i := by
  cases i with
  | cls => rfl
  | ret => rfl
  | call nnn =>
    obtain ⟨htop, hnnn⟩ := encode_call_eq_iff.1 (Eq.refl (encode (.call nnn)))
    rw [dispatch_eq_call htop, hnnn]
  | ldVx x nn =>
    obtain ⟨htop, hx, hnn⟩ := encode_ldVx_eq_iff.1 (Eq.refl (encode (.ldVx x nn)))
    rw [dispatch_eq_ldVx htop, hx, hnn]
  | ldI nnn =>
    obtain ⟨htop, hnnn⟩ := encode_ldI_eq_iff.1 (Eq.refl (encode (.ldI nnn)))
    rw [dispatch_eq_ldI htop, hnnn]
  | drw x y n =>
    obtain ⟨htop, hx, hy, hn⟩ := encode_drw_eq_iff.1 (Eq.refl (encode (.drw x y n)))
    rw [dispatch_eq_drw htop, hx, hy, hn]

/-- The constant bits of the row and the operands make up the whole opcode: none of its bits is ignored (R76). -/
theorem encode_of_dispatch {op : Word} {i : Instr} (h : dispatch (decodeFields op) = some i) : encode i = op := by
  rcases dispatch_cases op with ⟨rfl, hd⟩ | ⟨rfl, hd⟩ | ⟨htop, hd⟩ | ⟨htop, hd⟩ | ⟨htop, hd⟩ | ⟨htop, hd⟩ |
    ⟨-, -, -, -, -, -, hd⟩ <;> cases hd.symm.trans h
  · rfl
  · rfl
  · exact encode_call_eq_iff.2 ⟨htop, rfl⟩
  · exact encode_ldVx_eq_iff.2 ⟨htop, rfl, rfl⟩
  · exact encode_ldI_eq_iff.2 ⟨htop, rfl⟩
  · exact encode_drw_eq_iff.2 ⟨htop, rfl, rfl, rfl⟩

/-- The unrecognized opcodes, by what selects the six rows (R74 to R76). -/
theorem dispatch_eq_none_iff {op : Word} :
    dispatch (decodeFields op) = none ↔
      op ≠ 0x00E0#16 ∧ op ≠ 0x00EE#16 ∧ topNibble op ≠ 0x2#4 ∧ topNibble op ≠ 0x6#4 ∧ topNibble op ≠ 0xA#4 ∧
        topNibble op ≠ 0xD#4 := by
  rcases dispatch_cases op with ⟨rfl, hd⟩ | ⟨rfl, hd⟩ | ⟨htop, hd⟩ | ⟨htop, hd⟩ | ⟨htop, hd⟩ | ⟨htop, hd⟩ |
    ⟨hcls, hret, h2, h6, hA, hD, hd⟩
  · simp [hd]
  · simp [hd]
  · simp [hd, htop]
  · simp [hd, htop]
  · simp [hd, htop]
  · simp [hd, htop]
  · simp [hd, hcls, hret, h2, h6, hA, hD]

/-! ### From opcodes to bytes (R55, R70) -/

/-- Bytes decode to `i` iff dispatch picks `i` for the opcode of the first two; the rest is what follows them. -/
theorem decode_eq_ok_iff {bs rest : List Byte} {i : Instr} :
    decode bs = .ok (i, rest) ↔
      ∃ b0 b1, bs = b0 :: b1 :: rest ∧ dispatch (decodeFields (opcodeOf b0 b1)) = some i := by
  match bs with
  | [] => simp [decode]
  | [b0] => simp [decode]
  | b0 :: b1 :: tail =>
    cases hd : dispatch (decodeFields (opcodeOf b0 b1)) with
    | none => simp [decode, hd]
    | some j => simp [decode, hd, and_comm]

/-! ### The opcode map (R74) -/

/-- Every instruction's opcode selects the row of its mnemonic: the laws of its six constructors together. -/
theorem matchesRow (i : Instr) : Laws.MatchesRow.Statement i := by
  cases i with
  | cls => exact Laws.MatchesRow.cls
  | ret => exact Laws.MatchesRow.ret
  | call nnn => exact Laws.MatchesRow.call nnn
  | ldVx x nn => exact Laws.MatchesRow.ldVx x nn
  | ldI nnn => exact Laws.MatchesRow.ldI nnn
  | drw x y n => exact Laws.MatchesRow.drw x y n

/-- A row whose mask has all 16 bits selects its pattern alone (R75). -/
theorem OpcodeRow.eq_pattern_of_selects {r : OpcodeRow} {op : Word} (hmask : r.mask = 0xFFFF#16)
    (h : r.selects op = true) : op = r.pattern := by
  rw [← eq_of_beq h, hmask]
  exact BitVec.and_allOnes.symm

/-- A row whose mask has the top nibble selects opcodes of its family alone (R74). -/
theorem OpcodeRow.topNibble_eq_of_selects {r : OpcodeRow} {op : Word} (hmask : topNibble r.mask = 0xF#4)
    (h : r.selects op = true) : topNibble op = topNibble r.pattern :=
  calc topNibble op = topNibble op &&& topNibble r.mask := by rw [hmask]; exact BitVec.and_allOnes.symm
    _ = topNibble (op &&& r.mask) := BitVec.extractLsb'_and.symm
    _ = topNibble r.pattern := by rw [eq_of_beq h]

/-- No row selects an opcode that dispatch does not recognize (R76). -/
theorem not_selects_of_dispatch_eq_none {op : Word} (h : dispatch (decodeFields op) = none) {r : OpcodeRow}
    (hr : r ∈ opcodeTable) : ¬ r.selects op = true := by
  intro hsel
  obtain ⟨hcls, hret, h2, h6, hA, hD⟩ := dispatch_eq_none_iff.1 h
  simp only [opcodeTable, List.mem_cons, List.not_mem_nil, or_false] at hr
  rcases hr with rfl | rfl | rfl | rfl | rfl | rfl
  · exact hcls (OpcodeRow.eq_pattern_of_selects rfl hsel)
  · exact hret (OpcodeRow.eq_pattern_of_selects rfl hsel)
  · exact h2 (OpcodeRow.topNibble_eq_of_selects rfl hsel)
  · exact h6 (OpcodeRow.topNibble_eq_of_selects rfl hsel)
  · exact hA (OpcodeRow.topNibble_eq_of_selects rfl hsel)
  · exact hD (OpcodeRow.topNibble_eq_of_selects rfl hsel)

/-- Two rows that select one opcode ask for the same bits wherever both masks look. -/
theorem OpcodeRow.pattern_and_mask_of_selects {r q : OpcodeRow} {op : Word} (hr : r.selects op = true)
    (hq : q.selects op = true) : r.pattern &&& q.mask = q.pattern &&& r.mask := by
  rw [OpcodeRow.selects, beq_iff_eq] at hr hq
  rw [← hr, ← hq, BitVec.and_assoc, BitVec.and_assoc, BitVec.and_comm r.mask]

/-- No two rows of the map select one opcode (R74). -/
theorem opcodeTable_disjoint (op : Word) :
    opcodeTable.Pairwise (fun r q => ¬(r.selects op = true ∧ q.selects op = true)) :=
  have hclash : opcodeTable.Pairwise (fun r q => r.pattern &&& q.mask ≠ q.pattern &&& r.mask) := by decide
  hclash.imp fun hne ⟨hr, hq⟩ => hne (OpcodeRow.pattern_and_mask_of_selects hr hq)

/-- The row that selects an opcode is the only one (R74). -/
theorem eq_of_selects_of_mem_opcodeTable {op : Word} {r q : OpcodeRow} (hr : r ∈ opcodeTable) (hq : q ∈ opcodeTable)
    (hrsel : r.selects op = true) (hqsel : q.selects op = true) : r = q := by
  have : Std.Symm (fun r q : OpcodeRow => ¬(r.selects op = true ∧ q.selects op = true)) :=
    ⟨fun _ _ h h' => h h'.symm⟩
  by_contra hne
  exact (opcodeTable_disjoint op).forall hr hq hne ⟨hrsel, hqsel⟩

/-- The search through the map finds the row that selects the opcode (R74). -/
theorem find?_opcodeTable_eq_some {op : Word} {r : OpcodeRow} (hr : r ∈ opcodeTable) (hsel : r.selects op = true) :
    opcodeTable.find? (fun q => q.selects op) = some r := by
  have hsome : (opcodeTable.find? (fun q => q.selects op)).isSome = true := List.find?_isSome.2 ⟨r, hr, hsel⟩
  obtain ⟨q, hq⟩ := Option.isSome_iff_exists.1 hsome
  have hqsel : q.selects op = true := List.find?_some (p := fun q : OpcodeRow => q.selects op) hq
  rw [hq, eq_of_selects_of_mem_opcodeTable (List.mem_of_find?_eq_some hq) hr hqsel hsel]

/-- Dispatch picks the row that the search through the map finds (R74 to R76). -/
theorem dispatch_mnemonic (op : Word) :
    (dispatch (decodeFields op)).map Instr.mnemonic =
      (opcodeTable.find? (fun r => r.selects op)).map OpcodeRow.mnemonic := by
  cases hd : dispatch (decodeFields op) with
  | none => rw [List.find?_eq_none.2 fun r hr => not_selects_of_dispatch_eq_none hd hr]; rfl
  | some i =>
    obtain ⟨r, hr, hname, hsel⟩ := matchesRow i
    rw [encode_of_dispatch hd] at hsel
    rw [find?_opcodeTable_eq_some hr hsel, Option.map_some, Option.map_some, hname]

/-! ### The obligations of the family -/

/-- Settles O5: the two bytes make up the encoder's word again, and dispatch inverts the encoder. -/
theorem decodeOfEncodeIsIdentity : Obligations.DecodeOfEncodeIsIdentity := by
  intro i rest
  refine decode_eq_ok_iff.2 ⟨highByte (encode i), lowByte (encode i), rfl, ?_⟩
  rw [opcodeOf_highByte_lowByte, dispatch_encode]

/-- Settles O6: the bytes have an opcode that dispatch recognizes, and the encoder gives that opcode back. -/
theorem encodeOfDecodeIsIdentity : Obligations.EncodeOfDecodeIsIdentity := by
  intro bs rest i h
  obtain ⟨b0, b1, rfl, hd⟩ := decode_eq_ok_iff.1 h
  rw [encodeBytes, encode_of_dispatch hd, highByte_opcodeOf, lowByte_opcodeOf]
  rfl

/-- Settles O2: the recognized opcode is its instruction's word, which selects that instruction's row and no other and
holds its operands as fields. -/
theorem dispatchFollowsOpcodeMap : Obligations.DispatchFollowsOpcodeMap := by
  refine ⟨dispatch_mnemonic, opcodeTable_disjoint, fun op i h => ?_⟩
  have hword := encode_of_dispatch h
  cases i with
  | cls => exact hword.symm
  | ret => exact hword.symm
  | call nnn =>
    obtain ⟨-, hnnn⟩ := encode_call_eq_iff.1 hword
    exact hnnn.symm
  | ldVx x nn =>
    obtain ⟨-, hx, hnn⟩ := encode_ldVx_eq_iff.1 hword
    exact ⟨hx.symm, hnn.symm⟩
  | ldI nnn =>
    obtain ⟨-, hnnn⟩ := encode_ldI_eq_iff.1 hword
    exact hnnn.symm
  | drw x y n =>
    obtain ⟨-, hx, hy, hn⟩ := encode_drw_eq_iff.1 hword
    exact ⟨hx.symm, hy.symm, hn.symm⟩

/-- Settles O3, by the ranges of the opcodes that each top nibble takes. -/
theorem unrecognizedOpcodesAreExactlyTheRest : Obligations.UnrecognizedOpcodesAreExactlyTheRest := by
  intro op
  rw [dispatch_eq_none_iff]
  simp only [ne_eq, ← BitVec.toNat_inj, topNibble_toNat, BitVec.toNat_ofNat]
  omega

/-- Settles O1: each field is a shift and a mask of the opcode, and as numbers they are its quotients and remainders. -/
theorem decodeExtractsMaskedFields : Obligations.DecodeExtractsMaskedFields := by
  intro op
  refine ⟨rfl, setWidth_extractLsb' op 0 (by decide), setWidth_extractLsb' op 0 (by decide),
    setWidth_extractLsb' op 0 (by decide), setWidth_extractLsb' op 8 (by decide), setWidth_extractLsb' op 4 (by decide),
    ?_, ?_, ?_, ?_⟩
  · apply BitVec.eq_of_toNat_eq
    rw [BitVec.toNat_setWidth_of_le (by decide), topNibble_toNat, BitVec.toNat_ushiftRight, Nat.shiftRight_eq_div_pow]
  · simp only [decodeFields_nnn_toNat, decodeFields_x_toNat, decodeFields_y_toNat, decodeFields_n_toNat]; omega
  · simp only [decodeFields_nn_toNat, decodeFields_y_toNat, decodeFields_n_toNat]; omega
  · simp only [topNibble_toNat, decodeFields_nnn_toNat]; omega

/-- Settles O4, by the sum of each format. -/
theorem encodingsAreTheSumsOfTheirFields : Obligations.EncodingsAreTheSumsOfTheirFields :=
  ⟨encode_call_toNat, encode_ldVx_toNat, encode_ldI_toNat, encode_drw_toNat, rfl, rfl⟩

/-- Settles O7: the model runs on each pair of bytes. -/
theorem specWordsDecodeAsTheTableSays : Obligations.SpecWordsDecodeAsTheTableSays :=
  ⟨rfl, rfl, rfl, rfl, rfl, rfl, rfl, rfl⟩

end Sys2Proof

/-! PROOFS of the family 40_cycle: what a cycle answers for each answer of the fetch, and a step for each turn of the
schedule; the Executor's effects as a fault entry or a change that leaves `RUN` and `FAULT`; and the pieces of state the
host writes freely, which every operation of a cycle passes through unread. -/

namespace Sys2Proof.Machine

variable {s t : State}

/-! ### The fetch and the cycle, one equation per answer (R90 to R92) -/

theorem fetch_of_readByte {b0 b1 : Byte} (h0 : readByte s s.pc.toNat = .ok b0)
    (h1 : readByte s (s.pc.toNat + 1) = .ok b1) : fetch s = .ok (b0, b1) := by
  simp only [fetch, h0, h1]

theorem cycle_of_fetch_error {r : Raise} (hf : fetch s = .error r) :
    cycle s = .next (takeFault s r (some s.pc) none) := by
  simp only [cycle, hf]

theorem cycle_of_dispatch_none {b0 b1 : Byte} (hf : fetch s = .ok (b0, b1))
    (hd : dispatch (decodeFields (opcodeOf b0 b1)) = none) :
    cycle s = .next (takeFault (fetched s (opcodeOf b0 b1)) (.unimplementedOpcode (opcodeOf b0 b1)) (some s.pc)
      (some (opcodeOf b0 b1))) := by
  simp only [cycle, hf, hd]

theorem cycle_of_dispatch_some {b0 b1 : Byte} {i : Instr} (hf : fetch s = .ok (b0, b1))
    (hd : dispatch (decodeFields (opcodeOf b0 b1)) = some i) : cycle s = exec i (fetched s (opcodeOf b0 b1)) := by
  simp only [cycle, hf, hd]

/-! ### A step, one equation per turn (R95, R96) -/

theorem step_eq_lastIteration (hs : s.schedule = []) : step s = lastIteration s := by
  simp only [step, hs]

theorem step_eq_iteration {rest : List Turn} (hs : s.schedule = .core :: rest) :
    step s = iteration (s.setSchedule rest) := by
  simp only [step, hs]

theorem step_eq_transact {tr : Transaction} {rest : List Turn} (hs : s.schedule = .host tr :: rest) :
    step s = .next (transact (s.setSchedule rest) tr) := by
  simp only [step, hs]

theorem lastIteration_of_running (hr : s.run = .running) : lastIteration s = cycle s := by
  simp only [lastIteration, hr]

theorem lastIteration_of_paused (hr : s.run = .paused) : lastIteration s = .next s := by
  simp only [lastIteration, hr]

theorem lastIteration_of_halted (hr : s.run = .halted) : lastIteration s = .fault (.halted s.fault) := by
  simp only [lastIteration, hr]

theorem iteration_of_running (hr : s.run = .running) : iteration s = cycle s := by
  simp only [iteration, hr]

/-- No cycle occurs in `Paused` and `Halted` (R96). -/
theorem iteration_of_not_running (hr : s.run ≠ .running) : iteration s = .next s := by
  cases h : s.run with
  | running => exact absurd h hr
  | paused => simp only [iteration, h]
  | halted => simp only [iteration, h]

theorem step_eq_cycle (hr : s.run = .running) (hs : s.schedule = []) : step s = cycle s :=
  (step_eq_lastIteration hs).trans (lastIteration_of_running hr)

theorem step_eq_cycle_of_core_turn {rest : List Turn} (hr : s.run = .running) (hs : s.schedule = .core :: rest) :
    step s = cycle (s.setSchedule rest) :=
  (step_eq_iteration hs).trans (iteration_of_running hr)

/-! ### The Executor and the advance (R92, R94) -/

/-- An instruction takes a fault, or leaves `RUN` and `FAULT` (R94). -/
theorem exec_faultedWith_or_keepsControl {i : Instr} (h : exec i s = .next t) :
    (∃ f, FaultedWith s t f) ∨ KeepsControl s t := by
  rcases exec_cases h with ⟨r, hf, -⟩ | ⟨-, rfl⟩ | ⟨-, -, rfl⟩ | ⟨nnn, -, -, h16, rfl⟩ | ⟨x, nn, -, rfl⟩ |
    ⟨nnn, -, rfl⟩ | ⟨x, y, n, -, -, c, -, rfl⟩
  · exact .inl ⟨_, hf⟩
  all_goals exact .inr ⟨rfl, rfl⟩

/-- After a successful fetch a cycle is a fault entry on the advanced state, or an instruction that completes from it
(R92, R94, R140). -/
theorem cycle_of_fetch_ok {b0 b1 : Byte} (hf : fetch s = .ok (b0, b1)) (hc : cycle s = .next t) :
    (∃ f, FaultedWith (fetched s (opcodeOf b0 b1)) t f) ∨
    (∃ i, dispatch (decodeFields (opcodeOf b0 b1)) = some i ∧ exec i (fetched s (opcodeOf b0 b1)) = .next t ∧
      KeepsControl (fetched s (opcodeOf b0 b1)) t) := by
  cases hd : dispatch (decodeFields (opcodeOf b0 b1)) with
  | none =>
    rw [cycle_of_dispatch_none hf hd] at hc
    cases hc
    exact .inl ⟨_, takeFault_faultedWith _ _ _ _⟩
  | some i =>
    rw [cycle_of_dispatch_some hf hd] at hc
    exact (exec_faultedWith_or_keepsControl hc).imp_right fun hk => ⟨i, rfl, hc, hk⟩

/-- `RET` and `CALL`, the instructions that may write `PC`, have the opcodes the map gives them (R24, R74). -/
theorem opcode_of_exec_pc_ne {op : Word} {i : Instr} (hd : dispatch (decodeFields op) = some i)
    (he : exec i s = .next t) (hpc : t.pc ≠ s.pc) : op = 0x00EE#16 ∨ topNibble op = 0x2#4 := by
  obtain ⟨-, hwriters, -⟩ := onlyNamedInstructionsWriteEachRegister i s t he
  obtain rfl | ⟨nnn, rfl⟩ := hwriters hpc
  · exact .inl (encode_of_dispatch hd).symm
  · exact .inr (encode_call_eq_iff.1 (encode_of_dispatch hd)).1

/-! ### What the host writes freely passes through a cycle unread (R97) -/

/-- `s` with the pieces of `u` that the host writes freely: `DT`, `ST`, `KEYS`, `DIRTY`, the schedule and the log. -/
def State.withHostOf (s u : State) : State :=
  { s with dt := u.dt, st := u.st, keys := u.keys, dirty := u.dirty, schedule := u.schedule, out := u.out }

theorem coreAgrees_withHostOf (s u : State) : CoreAgrees s (s.withHostOf u) :=
  ⟨⟨rfl, rfl, rfl, ⟨rfl, rfl⟩, rfl, rfl, rfl⟩, ⟨rfl, rfl⟩⟩

/-- Two states that agree differ in the host's pieces alone. -/
theorem CoreAgrees.eq_withHostOf (h : CoreAgrees s t) : t = s.withHostOf t := by
  obtain ⟨⟨hv, hireg, hpc, ⟨hsp, hstack⟩, hfb, hmem, hparams⟩, ⟨hrun, hfault⟩⟩ := h
  simp only [State.withHostOf, ← hv, ← hireg, ← hpc, ← hsp, ← hstack, ← hfb, ← hmem, ← hparams, ← hrun, ← hfault]

@[simp] theorem spriteBytes_withHostOf (s u : State) (y n : Nibble) :
    spriteBytes (s.withHostOf u) y n = spriteBytes s y n :=
  readBytes_congr (s := s) (t := s.withHostOf u) rfl rfl _ _

@[simp] theorem fetch_withHostOf (s u : State) : fetch (s.withHostOf u) = fetch s := by
  have hread (a : Nat) : readByte (s.withHostOf u) a = readByte s a := readByte_congr rfl rfl a
  simp only [fetch, hread]
  rfl

@[simp] theorem push_withHostOf (s u : State) (a : Word) :
    push (s.withHostOf u) a = (push s a).map (fun t => t.withHostOf u) := by
  rcases push_cases s a with ⟨hlt, h16, hp⟩ | ⟨hle, hp⟩ <;> rw [hp]
  · exact dif_pos hlt
  · exact dif_neg (Nat.not_lt.2 hle)

@[simp] theorem pop_withHostOf (s u : State) :
    pop (s.withHostOf u) = (pop s).map (fun p => (p.1, p.2.withHostOf u)) := by
  rcases pop_cases s with ⟨hne, hp⟩ | ⟨h0, hp⟩ <;> rw [hp]
  · exact dif_neg hne
  · exact dif_pos h0

theorem takeFault_withHostOf (s u : State) (r : Raise) (pc op : Option Word) :
    takeFault (s.withHostOf u) r pc op = (takeFault s r pc op).withHostOf u := by
  rw [takeFault_eq, takeFault_eq]
  rfl

theorem takeFaultIn_withHostOf (s u : State) (r : Raise) (i : Instr) :
    takeFaultIn (s.withHostOf u) r i = (takeFaultIn s r i).withHostOf u :=
  takeFault_withHostOf s u r _ _

/-- The trace goes to the log that is there (R170). -/
theorem fetched_withHostOf (s u : State) (op : Word) :
    fetched (s.withHostOf u) op = (fetched s op).withHostOf (u.emit (.trace s.pc (decodeFields op))) :=
  rfl

theorem execRet_withHostOf (u : State) (h : execRet s = .next t) :
    execRet (s.withHostOf u) = .next (t.withHostOf u) := by
  cases hp : pop s with
  | error r =>
    simp only [execRet, hp] at h
    cases h
    simp only [execRet, pop_withHostOf, hp, Except.map, takeFaultIn_withHostOf]
  | ok p =>
    simp only [execRet, hp] at h
    cases h
    simp only [execRet, pop_withHostOf, hp, Except.map]
    rfl

theorem execCall_withHostOf (u : State) {nnn : Addr12} (h : execCall nnn s = .next t) :
    execCall nnn (s.withHostOf u) = .next (t.withHostOf u) := by
  have hpush : push (s.withHostOf u) (s.withHostOf u).pc = (push s s.pc).map (fun t => t.withHostOf u) :=
    push_withHostOf s u s.pc
  cases hp : push s s.pc with
  | error r =>
    simp only [execCall, hp] at h
    cases h
    simp only [execCall, hpush, hp, Except.map, takeFaultIn_withHostOf]
  | ok p =>
    simp only [execCall, hp] at h
    cases h
    simp only [execCall, hpush, hp, Except.map]
    rfl

/-- A draw reads none of the host's pieces; it sets `DIRTY`, a fault leaves it (R30). -/
theorem execDrw_withHostOf (u : State) {x y n : Nibble} (h : execDrw x y n s = .next t) :
    ∃ u', execDrw x y n (s.withHostOf u) = .next (t.withHostOf u') := by
  cases hb : spriteBytes s y n with
  | error r =>
    simp only [execDrw, hb] at h
    cases h
    exact ⟨u, by simp only [execDrw, spriteBytes_withHostOf, hb, takeFaultIn_withHostOf]⟩
  | ok bytes =>
    simp only [execDrw, hb] at h
    cases h
    exact ⟨u.setDirty true, by simp only [execDrw, spriteBytes_withHostOf, hb]; rfl⟩

theorem exec_withHostOf (u : State) {i : Instr} (h : exec i s = .next t) :
    ∃ u', exec i (s.withHostOf u) = .next (t.withHostOf u') := by
  cases i with
  | cls => cases h; exact ⟨u.setDirty true, rfl⟩
  | ret => exact ⟨u, execRet_withHostOf u h⟩
  | call nnn => exact ⟨u, execCall_withHostOf u h⟩
  | ldVx x nn => cases h; exact ⟨u, rfl⟩
  | ldI nnn => cases h; exact ⟨u, rfl⟩
  | drw x y n => exact execDrw_withHostOf u h

theorem cycle_withHostOf (u : State) (h : cycle s = .next t) :
    ∃ u', cycle (s.withHostOf u) = .next (t.withHostOf u') := by
  have hfetch := fetch_withHostOf s u
  rcases cycle_cases s with ⟨r, hf, he⟩ | ⟨b0, b1, hf, hd, he⟩ | ⟨b0, b1, i, hf, hd, he⟩ <;> rw [he] at h <;>
    rw [hf] at hfetch
  · cases h
    refine ⟨u, ?_⟩
    rw [cycle_of_fetch_error hfetch, takeFault_withHostOf]
    rfl
  · cases h
    refine ⟨u.emit (.trace s.pc (decodeFields (opcodeOf b0 b1))), ?_⟩
    rw [cycle_of_dispatch_none hfetch hd, fetched_withHostOf, takeFault_withHostOf]
    rfl
  · rw [cycle_of_dispatch_some hfetch hd, fetched_withHostOf]
    exact exec_withHostOf _ h

/-! ### The obligations of the family -/

/-- Settles O22: every instruction answers a next state, in the frame of the Executor. -/
theorem executorConfinesItsEffects : Obligations.ExecutorConfinesItsEffects := by
  intro i s
  obtain ⟨t, he⟩ := exec_next i s
  obtain ⟨hmem, hhost⟩ := exec_keeps_mem_and_hostSide he
  exact ⟨t, he, hmem, hhost, (exec_faultedWith_or_keepsControl he).symm⟩

/-- Settles O28: a fault entry keeps the advanced `PC`, an instruction that completes does not halt, and only `RET` and
`CALL` write `PC`. -/
theorem advanceIsUnconditional : Obligations.AdvanceIsUnconditional := by
  intro s t b0 b1 h0 h1 hc hr
  have hf := fetch_of_readByte h0 h1
  refine ⟨fun hhalt => ?_, fun hpc => ?_, fun i hd => ?_⟩
  · rcases cycle_of_fetch_ok hf hc with ⟨f, hfault⟩ | ⟨i, -, -, hkeeps⟩
    · exact hfault.core.pc
    · have hrun : t.run = .running := hkeeps.run.trans hr
      rw [hhalt] at hrun
      cases hrun
  · rcases cycle_of_fetch_ok hf hc with ⟨f, hfault⟩ | ⟨i, hd, he, -⟩
    · exact absurd hfault.core.pc hpc
    · exact opcode_of_exec_pc_ne hd he hpc
  · exact ⟨fetched s (opcodeOf b0 b1), cycle_of_dispatch_some hf hd, rfl, rfl, rfl, ⟨rfl, rfl⟩, ⟨rfl, rfl⟩, ⟨rfl, rfl⟩,
      rfl⟩

/-- Settles O34: the second state is the first with other host's pieces, and a cycle passes them through. -/
theorem hostStateCannotAffectACycle : Obligations.HostStateCannotAffectACycle := by
  intro s t s' hagree hc
  obtain ⟨u, hu⟩ := cycle_withHostOf t hc
  rw [← hagree.eq_withHostOf] at hu
  exact ⟨_, hu, coreAgrees_withHostOf s' u⟩

/-- Settles O27, by the cycle of a recognized opcode, under each of the core's two turns. -/
theorem stepRunsTheDecodedInstruction : Obligations.StepRunsTheDecodedInstruction := by
  refine ⟨fun s hr => ⟨step_eq_cycle hr, fun rest hs => step_eq_cycle_of_core_turn hr hs⟩,
    fun s i b0 b1 hr h0 h1 hdec => ?_, fetched_eq, opcodeOf_toNat⟩
  obtain ⟨c0, c1, hbytes, hd⟩ := decode_eq_ok_iff.1 hdec
  cases hbytes
  have hf := fetch_of_readByte h0 h1
  refine ⟨fun hs => ?_, fun rest hs => ?_⟩
  · exact (step_eq_cycle hr hs).trans (cycle_of_dispatch_some hf hd)
  · exact (step_eq_cycle_of_core_turn hr hs).trans (cycle_of_dispatch_some (s := s.setSchedule rest) hf hd)

/-- Settles O30: the two ways a fetch fails, each with its first missing address. -/
theorem fetchFaultLeavesPc : Obligations.FetchFaultLeavesPc := by
  intro s hr hs hpc
  rw [step_eq_cycle hr hs]
  rcases fetch_cases s with ⟨hlt, -⟩ | ⟨hlast, hf⟩ | ⟨hge, hf⟩
  · rw [Config.memSize_eq] at hlt
    omega
  · have haddr : s.pc.toNat = 0x0FFF := Nat.succ.inj hlast
    rw [if_pos haddr]
    exact ⟨_, cycle_of_fetch_error hf, takeFault_faultedWith _ _ _ _⟩
  · have haddr : s.pc.toNat ≠ 0x0FFF := by rw [Config.memSize_eq] at hge; omega
    rw [if_neg haddr]
    exact ⟨_, cycle_of_fetch_error hf, takeFault_faultedWith _ _ _ _⟩

/-- Settles O33: the core's turn by `RUN`, and the cases of a step, of which the stuck halt alone gives no state. -/
theorem noCycleUnlessRunning : Obligations.NoCycleUnlessRunning := by
  refine ⟨fun s hr hs => (step_eq_lastIteration hs).trans (lastIteration_of_paused hr),
    fun s rest hr hs => (step_eq_iteration hs).trans (iteration_of_not_running hr),
    fun s hr hs => (step_eq_lastIteration hs).trans (lastIteration_of_halted hr), fun s hstuck => ?_⟩
  rcases step_cases s with ⟨-, -, he⟩ | ⟨-, -, he⟩ | ⟨hs, hr, -⟩ | ⟨rest, -, -, he⟩ | ⟨rest, -, -, he⟩ |
    ⟨tr, rest, -, he⟩
  · rw [he]; exact cycle_next s
  · exact ⟨_, he⟩
  · exact absurd ⟨hr, hs⟩ hstuck
  · rw [he]; exact cycle_next _
  · exact ⟨_, he⟩
  · exact ⟨_, he⟩

/-- Settles O35: no case of a host turn looks at `RUN`. -/
theorem hostTurnIsOneTransaction : Obligations.HostTurnIsOneTransaction :=
  fun _ _ _ hs => step_eq_transact hs

end Sys2Proof.Machine

/-! PROOFS of the family 41_family_0_cls_ret: one equation for each answer of `RET` and for a `CALL` below capacity,
which move the depth between `k.castSucc` and `k.succ` at the entry `k` in use; the two instructions as steps of the machine;
and a `CALL` undone by a `RET`. -/

namespace Sys2Proof.Machine

variable {s t : State}

/-! ### The meanings, one equation per answer (R101, R110) -/

theorem exec_ret_of_sp_eq_succ {k : Fin 16} (hk : s.sp = k.succ) :
    exec .ret s = .next ((s.setSp k.castSucc).setPc s.stack[k]) := by
  rcases execRet_cases s with ⟨-, he⟩ | ⟨h0, -⟩
  · simp only [hk, Fin.val_succ, Nat.add_sub_cancel] at he
    exact he
  · rw [hk] at h0
    exact absurd h0 (Nat.succ_ne_zero k.val)

theorem exec_ret_of_sp_eq_zero (h0 : s.sp.val = 0) :
    exec .ret s = .next (takeFault s .stackUnderflow (some (s.pc - 2#16)) (some 0x00EE#16)) := by
  rcases execRet_cases s with ⟨hne, -⟩ | ⟨-, he⟩
  · exact absurd h0 hne
  · exact he

theorem exec_call_of_sp_lt (nnn : Addr12) (hcap : s.sp.val < s.params.stackCap.val) :
    ∃ k : Fin 16, s.sp = k.castSucc ∧
      exec (.call nnn) s = .next ((s.setStack k s.pc k.succ).setPc (addrOperand nnn)) := by
  rcases execCall_cases nnn s with ⟨-, h16, he⟩ | ⟨hfull, -⟩
  · exact ⟨⟨s.sp.val, h16⟩, rfl, he⟩
  · exact absurd hcap (Nat.not_lt.2 hfull)

/-- No instruction writes memory (R94). -/
theorem exec_keepsMemory {i : Instr} (h : exec i s = .next t) : KeepsMemory s t := by
  obtain ⟨hmem, hhost⟩ := exec_keeps_mem_and_hostSide h
  exact readByte_congr hhost.params hmem

theorem addrOperand_toNat (nnn : Addr12) : (addrOperand nnn).toNat = nnn.toNat :=
  BitVec.toNat_setWidth_of_le (by decide)

/-! ### The state the Executor starts from, one field at a time (R92, R170) -/

@[simp] theorem fetched_v (s : State) (op : Word) : (fetched s op).v = s.v := rfl
@[simp] theorem fetched_ireg (s : State) (op : Word) : (fetched s op).ireg = s.ireg := rfl
@[simp] theorem fetched_pc (s : State) (op : Word) : (fetched s op).pc = s.pc + 2#16 := rfl
@[simp] theorem fetched_sp (s : State) (op : Word) : (fetched s op).sp = s.sp := rfl
@[simp] theorem fetched_stack (s : State) (op : Word) : (fetched s op).stack = s.stack := rfl
@[simp] theorem fetched_fb (s : State) (op : Word) : (fetched s op).fb = s.fb := rfl
@[simp] theorem fetched_mem (s : State) (op : Word) : (fetched s op).mem = s.mem := rfl
@[simp] theorem fetched_run (s : State) (op : Word) : (fetched s op).run = s.run := rfl
@[simp] theorem fetched_params (s : State) (op : Word) : (fetched s op).params = s.params := rfl

/-! ### The step of an instruction that stands at `PC` (R55, R90, R92) -/

theorem step_eq_exec_of_decode {i : Instr} {b0 b1 : Byte} (hr : s.run = .running) (hs : s.schedule = [])
    (h0 : readByte s s.pc.toNat = .ok b0) (h1 : readByte s (s.pc.toNat + 1) = .ok b1)
    (hdec : decode [b0, b1] = .ok (i, [])) : step s = exec i (fetched s (opcodeOf b0 b1)) := by
  obtain ⟨-, hstep, -⟩ := stepRunsTheDecodedInstruction
  exact (hstep s i b0 b1 hr h0 h1 hdec).1 hs

theorem step_call_of_sp_lt {nnn : Addr12} {b0 b1 : Byte} (hr : s.run = .running) (hs : s.schedule = [])
    (h0 : readByte s s.pc.toNat = .ok b0) (h1 : readByte s (s.pc.toNat + 1) = .ok b1)
    (hdec : decode [b0, b1] = .ok (.call nnn, [])) (hcap : s.sp.val < s.params.stackCap.val) :
    ∃ k : Fin 16, s.sp = k.castSucc ∧ step s =
      .next (((fetched s (opcodeOf b0 b1)).setStack k (s.pc + 2#16) k.succ).setPc (addrOperand nnn)) := by
  obtain ⟨k, hk, he⟩ := exec_call_of_sp_lt (s := fetched s (opcodeOf b0 b1)) nnn hcap
  exact ⟨k, hk, (step_eq_exec_of_decode hr hs h0 h1 hdec).trans he⟩

theorem step_ret_of_sp_eq_succ {k : Fin 16} (hr : s.run = .running) (hs : s.schedule = [])
    (h0 : readByte s s.pc.toNat = .ok 0x00#8) (h1 : readByte s (s.pc.toNat + 1) = .ok 0xEE#8) (hk : s.sp = k.succ) :
    step s = .next (((fetched s 0x00EE#16).setSp k.castSucc).setPc s.stack[k]) :=
  (step_eq_exec_of_decode hr hs h0 h1 rfl).trans (exec_ret_of_sp_eq_succ (s := fetched s 0x00EE#16) hk)

/-! ### The obligations of the family -/

/-- Settles O21: the `CALL` writes the address after it into the first free entry, which is the one the `RET` takes. -/
theorem callThenReturnComesBack : Obligations.CallThenReturnComesBack := by
  intro s nnn b0 b1 hr hs hcap h0 h1 hdec hret0 hret1
  obtain ⟨k, hk, hcall⟩ := step_call_of_sp_lt hr hs h0 h1 hdec hcap
  rw [← addrOperand_toNat] at hret0 hret1
  have hret := step_ret_of_sp_eq_succ (k := k)
    (s := ((fetched s (opcodeOf b0 b1)).setStack k (s.pc + 2#16) k.succ).setPc (addrOperand nnn)) hr hs
    ((readByte_congr rfl rfl _).trans hret0) ((readByte_congr rfl rfl _).trans hret1) rfl
  refine ⟨_, _, hcall, hret, ?_, by simp [hk], by simp [hr], by simp, by simp, by simp,
    readByte_congr (by simp) (by simp)⟩
  rw [State.setPc_pc, State.setPc_stack, State.setStack_getElem, if_pos rfl]

/-- Settles O12: `CLS` has no case, and the blank framebuffer is off everywhere. -/
theorem clsClearsScreen : Obligations.ClsClearsScreen :=
  ⟨rfl, fun _ => ⟨_, rfl, Screen.pixel_blank, rfl, rfl, rfl, rfl, ⟨rfl, rfl⟩, ⟨rfl, rfl⟩,
    ⟨rfl, rfl, rfl, rfl, rfl, rfl⟩, exec_keepsMemory (i := .cls) rfl⟩⟩

/-- Settles O13, by the two answers of `RET`: a depth that is not 0 is the successor of the entry it pops, and an empty
stack is a fault entry. -/
theorem retPopsIntoPc : Obligations.RetPopsIntoPc := by
  refine ⟨rfl, fun s hne => ?_, fun s h0 => ?_⟩
  · obtain ⟨k, hk⟩ := Fin.exists_succ_eq.2 (Fin.val_ne_zero_iff.1 hne)
    have he := exec_ret_of_sp_eq_succ hk.symm
    obtain ⟨-, hhost⟩ := exec_keeps_mem_and_hostSide he
    exact ⟨_, he, ⟨k, congrArg Fin.val hk, rfl, rfl⟩, rfl, rfl, rfl, ⟨rfl, rfl⟩, ⟨rfl, rfl⟩, hhost,
      exec_keepsMemory he⟩
  · exact ⟨_, exec_ret_of_sp_eq_zero h0, takeFault_faultedWith _ _ _ _⟩

end Sys2Proof.Machine

/-! PROOFS of the family 42_family_2_call: the `CALL` at capacity, beside the equation for a `CALL` below it, and the
entries of the stack after a push. -/

namespace Sys2Proof.Machine

variable {s : State}

/-- At capacity `CALL` is a fault entry (R110, R155). -/
theorem exec_call_of_stackCap_le (nnn : Addr12) (hfull : s.params.stackCap.val ≤ s.sp.val) :
    exec (.call nnn) s =
      .next (takeFault s .stackOverflow (some (s.pc - 2#16)) (some (encode (.call nnn)))) := by
  rcases execCall_cases nnn s with ⟨hcap, -⟩ | ⟨-, he⟩
  · exact absurd hfull (Nat.not_le.2 hcap)
  · exact he

theorem State.setStack_getElem_same (s : State) (k : Fin 16) (a : Word) (d : Fin 17) :
    (s.setStack k a d).stack[k] = a := by
  rw [State.setStack_getElem, if_pos rfl]

theorem State.setStack_getElem_ne (s : State) {k j : Fin 16} (hne : j ≠ k) (a : Word) (d : Fin 17) :
    (s.setStack k a d).stack[j] = s.stack[j] := by
  rw [State.setStack_getElem, if_neg hne]

/-- Settles O14, by the two answers of `CALL`: below capacity it pushes into the first free entry `k`, which takes the
depth from `k.castSucc` to `k.succ`; at capacity it is a fault entry. -/
theorem callPushesPcAndJumps : Obligations.CallPushesPcAndJumps := by
  refine ⟨fun _ => dispatch_eq_call, fun nnn s hcap => ?_, fun nnn s hfull => ?_⟩
  · obtain ⟨k, hk, he⟩ := exec_call_of_sp_lt nnn hcap
    obtain ⟨-, hhost⟩ := exec_keeps_mem_and_hostSide he
    have hsp : k.val = s.sp.val := (congrArg Fin.val hk).symm
    exact ⟨_, he,
      ⟨k, hsp, rfl, s.setStack_getElem_same k s.pc k.succ, fun _ hne => s.setStack_getElem_ne hne s.pc k.succ⟩,
      addrOperand_toNat nnn, rfl, rfl, ⟨rfl, rfl⟩, ⟨rfl, rfl⟩, hhost, exec_keepsMemory he⟩
  · exact ⟨_, exec_call_of_stackCap_le nnn hfull, takeFault_faultedWith _ _ _ _⟩

end Sys2Proof.Machine

/-! PROOFS of the family 43_family_6_A_load_immediate: the two loads, whose one answer is one register write. -/

namespace Sys2Proof.Machine

/-! ### The meanings, one equation each (R120, R121) -/

theorem exec_ldVx (x : Nibble) (nn : Byte) (s : State) :
    exec (.ldVx x nn) s = .next (s.setV (regIndex x) nn) := rfl

theorem exec_ldI (nnn : Addr12) (s : State) : exec (.ldI nnn) s = .next (s.setI (addrOperand nnn)) := rfl

/-- Register `X` is the one whose number is the operand's value, `VF` included (R20). -/
theorem State.getV_setV_regIndex (s : State) (x : Nibble) (k : Fin 16) (b : Byte) :
    (s.setV (regIndex x) b).getV k = if k.val = x.toNat then b else s.getV k :=
  (s.getV_setV (regIndex x) k b).trans (if_congr Fin.ext_iff rfl rfl)

/-- Settles O15: `LD Vx` has no case, and its next state is the old one with `V[X]` written. -/
theorem ldVxWritesOneRegister : Obligations.LdVxWritesOneRegister := by
  refine ⟨fun _ => dispatch_eq_ldVx, fun x nn s => ?_⟩
  have he := exec_ldVx x nn s
  obtain ⟨-, hhost⟩ := exec_keeps_mem_and_hostSide he
  exact ⟨_, he, fun k => s.getV_setV_regIndex x k nn, rfl, rfl, ⟨rfl, rfl⟩, ⟨rfl, rfl⟩, ⟨rfl, rfl⟩, hhost,
    exec_keepsMemory he⟩

/-- Settles O16: `LD I` has no case, and its next state is the old one with `I` written. -/
theorem ldIWritesIndex : Obligations.LdIWritesIndex := by
  refine ⟨fun _ => dispatch_eq_ldI, fun nnn s => ?_⟩
  have he := exec_ldI nnn s
  obtain ⟨-, hhost⟩ := exec_keeps_mem_and_hostSide he
  exact ⟨_, he, addrOperand_toNat nnn, rfl, rfl, ⟨rfl, rfl⟩, ⟨rfl, rfl⟩, ⟨rfl, rfl⟩, hhost, exec_keepsMemory he⟩

end Sys2Proof.Machine

/-! PROOFS of the family 44_family_D_draw: what a draw does to a canvas, row after row up to the closed form of the
sprite; the two answers of `DRW`; and the draw of no rows and the draw done twice, by the closed form. -/

namespace Sys2Proof.Machine

/-! ### The framebuffer as its pixels (R29) -/

theorem Screen.eq_of_pixel_eq {f g : Screen} (h : ∀ px py, f.pixel px py = g.pixel px py) : f = g :=
  Vector.ext fun y hy => Vector.ext fun x hx => h ⟨x, hx⟩ ⟨y, hy⟩

/-! ### What a draw does to a canvas (R134) -/

/-- `d` is `c` after a draw that covers the pixels `cov`: each is inverted, no other pixel changes, and a collision is
added iff a covered pixel was on (R134). -/
structure Canvas.Drawn (cov : Fin Config.fbWidth → Fin Config.fbHeight → Bool) (c d : Canvas) : Prop where
  pixel : ∀ px py, d.fb.pixel px py = (c.fb.pixel px py ^^ cov px py)
  hit : d.hit = true ↔ c.hit = true ∨ ∃ px py, cov px py = true ∧ c.fb.pixel px py = true

/-- Where nothing is covered, nothing is drawn. -/
theorem Canvas.Drawn.refl {cov : Fin Config.fbWidth → Fin Config.fbHeight → Bool} (hcov : ∀ px py, cov px py = false)
    (c : Canvas) : Canvas.Drawn cov c c :=
  ⟨by simp [hcov], by simp [hcov]⟩

/-- Two draws that cover no pixel in common are one draw of both: the first changes no pixel that the second covers. -/
theorem Canvas.Drawn.trans {cov₁ cov₂ : Fin Config.fbWidth → Fin Config.fbHeight → Bool} {c d e : Canvas}
    (h₁ : Canvas.Drawn cov₁ c d) (h₂ : Canvas.Drawn cov₂ d e) (hdisj : ∀ px py, cov₂ px py = true → cov₁ px py = false) :
    Canvas.Drawn (fun px py => cov₁ px py || cov₂ px py) c e where
  pixel px py := by
    rw [h₂.pixel, h₁.pixel]
    cases h : cov₂ px py with
    | false => simp
    | true => simp [hdisj px py h]
  hit := by
    have hkept : ∀ px py, cov₂ px py = true → d.fb.pixel px py = c.fb.pixel px py := fun px py h => by
      rw [h₁.pixel, hdisj px py h, Bool.xor_false]
    have hsecond : (∃ px py, cov₂ px py = true ∧ d.fb.pixel px py = true) ↔
        ∃ px py, cov₂ px py = true ∧ c.fb.pixel px py = true :=
      exists₂_congr fun px py => and_congr_right fun h => by rw [hkept px py h]
    simp only [h₂.hit, h₁.hit, hsecond, Bool.or_eq_true, or_and_right, exists_or, or_assoc]

/-- One whole sprite row, as a draw on the canvas (R133). -/
theorem drawBits_drawn (b : Byte) (x0 : Fin Config.fbWidth) (y : Fin Config.fbHeight) (c : Canvas) :
    Canvas.Drawn (fun px py => decide (py = y) && RowCovers b x0 8 px) c (drawBits b x0 y 8 c) := by
  obtain ⟨hpixel, hhit⟩ := drawBits_spec b x0 y 8 (Nat.le_refl 8) c
  refine ⟨hpixel, hhit.trans (or_congr_right ?_)⟩
  simp only [Bool.and_eq_true, decide_eq_true_eq, and_assoc, exists_eq_left]

/-! ### The rows of a sprite (R132, R133) -/

theorem spriteCovers_zero (sprite : Nat → Byte) (x0 y0 x y : Nat) : SpriteCovers sprite 0 x0 y0 x y = false := by
  simp only [SpriteCovers, Bool.and_eq_false_iff, decide_eq_false_iff_not]
  left
  omega

/-- The top row of a sprite covers row `y0` alone. -/
theorem spriteCovers_succ (sprite : Nat → Byte) (rows y0 : Nat) (x0 px : Fin Config.fbWidth)
    (y py : Fin Config.fbHeight) (hy : y.val = y0) :
    SpriteCovers sprite (rows + 1) x0 y0 px py =
      ((decide (py = y) && RowCovers (sprite 0) x0 8 px) ||
        SpriteCovers (fun r => sprite (r + 1)) rows x0 (y0 + 1) px py) := by
  subst hy
  by_cases hpy : py = y
  · subst hpy
    simp [SpriteCovers, RowCovers]
  · have hne : py.val ≠ y.val := fun h => hpy (Fin.ext h)
    by_cases hlt : py.val < y.val
    · simp [SpriteCovers, hpy, Nat.not_le.2 hlt, Nat.not_le.2 (Nat.lt_succ_of_lt hlt)]
    · have hsub : py.val - (y.val + 1) + 1 = py.val - y.val := by omega
      have hin : (y.val ≤ py.val ∧ py.val < y.val + (rows + 1)) ↔
          (y.val + 1 ≤ py.val ∧ py.val < y.val + 1 + rows) := by omega
      simp only [SpriteCovers, hsub, hpy, decide_false, Bool.false_and, Bool.false_or, ← and_assoc, hin]

/-- A sprite with no row clipped at the bottom is drawn as its closed form, by induction on its rows from the top. -/
theorem drawRows_drawn (x0 : Fin Config.fbWidth) (sprite : Nat → Byte) (rows y0 : Nat)
    (hrows : y0 + rows ≤ Config.fbHeight) (c : Canvas) :
    Canvas.Drawn (fun px py => SpriteCovers sprite rows x0 y0 px py) c
      (drawRows x0 y0 ((List.range rows).map sprite) c) := by
  induction rows generalizing sprite y0 c with
  | zero => exact .refl (fun px py => spriteCovers_zero sprite x0 y0 px py) c
  | succ rows ih =>
    have hy : y0 < Config.fbHeight := by omega
    have htop := drawBits_drawn (sprite 0) x0 ⟨y0, hy⟩ c
    have hrest := ih (fun r => sprite (r + 1)) (y0 + 1) (by omega) (drawBits (sprite 0) x0 ⟨y0, hy⟩ 8 c)
    rw [List.range_succ_eq_map, List.map_cons, List.map_map, drawRows, dif_pos hy]
    simp only [spriteCovers_succ sprite rows y0 x0 _ ⟨y0, hy⟩ _ rfl]
    refine htop.trans hrest fun px py hcov => ?_
    have hbelow : py ≠ ⟨y0, hy⟩ := by
      rintro rfl
      simp [SpriteCovers] at hcov
    simp [hbelow]

/-! ### The two answers of `DRW` (R130, R132, R135) -/

/-- The rows of `DRW` end within the screen (R132). -/
theorem startRow_add_spriteRows_le (n : Nibble) (y0 : Fin Config.fbHeight) :
    y0.val + spriteRows n y0 ≤ Config.fbHeight := by
  unfold spriteRows
  omega

/-- Where every processed row's byte exists, `DRW` draws the closed form of the sprite on a canvas with no collision
yet (R130). -/
theorem exec_drw_of_readByte {x y n : Nibble} {s : State} {sprite : Nat → Byte}
    (hread : ∀ r < spriteRows n (startRow s y), readByte s (spriteAddress s + r) = .ok (sprite r)) :
    ∃ c, Canvas.Drawn (fun px py => SpriteCovers sprite (spriteRows n (startRow s y)) (startColumn s x).val
          (startRow s y).val px.val py.val) { fb := s.fb, hit := false } c ∧
      exec (.drw x y n) s = .next (markDirty (setCollision (s.setFb c.fb) c.hit)) := by
  rcases execDrw_cases x y n s with ⟨-, c, rfl, he⟩ | ⟨r, hr, hmiss, -, -⟩
  · refine ⟨_, ?_, he⟩
    have hbytes : (List.range (spriteRows n (startRow s y))).map
        (fun r => Memory.get s.params s.mem (spriteAddress s + r)) =
          (List.range (spriteRows n (startRow s y))).map sprite :=
      List.map_congr_left fun r hr => (readByte_ok (hread r (List.mem_range.1 hr))).2.symm
    rw [hbytes]
    exact drawRows_drawn _ sprite _ _ (startRow_add_spriteRows_le n _) _
  · exact absurd (readByte_ok (hread r hr)).1 (Nat.not_lt.2 hmiss)

/-- Where a processed row's byte does not exist, `DRW` takes the fault of the first such row (R132, R135). -/
theorem exec_drw_of_missing {x y n : Nibble} {s : State} {r : Nat} (hr : r < spriteRows n (startRow s y))
    (hmiss : Config.memSize ≤ spriteAddress s + r) (hfirst : ∀ q < r, spriteAddress s + q < Config.memSize) :
    exec (.drw x y n) s = .next (takeFaultIn s (.addressOutOfRange (spriteAddress s + r)) (.drw x y n)) := by
  rcases execDrw_cases x y n s with ⟨hall, -⟩ | ⟨q, -, hq, hbelow, he⟩
  · exact absurd (hall r hr) (Nat.not_lt.2 hmiss)
  · have hle : r ≤ q := Nat.not_lt.1 fun hlt => Nat.not_lt.2 hq (hfirst q hlt)
    have hge : q ≤ r := Nat.not_lt.1 fun hlt => Nat.not_lt.2 hmiss (hbelow r hlt)
    rw [Nat.le_antisymm hle hge]
    exact he

/-- Every processed row's byte exists, or there is a first row whose byte does not (R132). -/
theorem rows_exist_or_first_missing (s : State) (rows : Nat) :
    (∃ sprite : Nat → Byte, ∀ r < rows, readByte s (s.ireg.toNat + r) = .ok (sprite r)) ∨
    (∃ r < rows, 0x0FFF < s.ireg.toNat + r ∧ ∀ q < r, s.ireg.toNat + q ≤ 0x0FFF) := by
  rcases readBytes_cases s s.ireg.toNat rows with ⟨hall, -⟩ | ⟨r, hr, hmiss, hfirst, -⟩
  · exact .inl ⟨_, fun r hr => readByte_of_lt (hall r hr)⟩
  · exact .inr ⟨r, hr, hmiss, fun q hq => Nat.le_of_lt_succ (hfirst q hq)⟩

theorem getV_setCollision (s : State) (hit : Bool) (k : Fin 16) :
    (setCollision s hit).getV k = if k = 15 then collisionByte hit else s.getV k :=
  s.getV_setV vf k (collisionByte hit)

/-! ### The obligations of the family -/

/-- Settles O17: the canvas of the draw phase is the closed form, `VF` is its collision, and `DRW` writes nothing else
but `DIRTY`. -/
theorem drwMatchesClosedForm : Obligations.DrwMatchesClosedForm := by
  rintro x y n s _ _ _ sprite rfl rfl rfl hread
  obtain ⟨c, hdrawn, he⟩ := exec_drw_of_readByte (x := x) (y := y) (n := n) hread
  obtain ⟨-, hhost⟩ := exec_keeps_mem_and_hostSide he
  have hv := getV_setCollision (s.setFb c.fb) c.hit
  refine ⟨_, he, hdrawn.pixel, ?_, rfl, fun k hk => (hv k).trans (if_neg hk), rfl, rfl, ⟨rfl, rfl⟩, ⟨rfl, rfl⟩, hhost,
    exec_keepsMemory he⟩
  have hvf := (hv 15).trans (if_pos rfl)
  have hhit := hdrawn.hit
  cases hc : c.hit with
  | true =>
    rw [hc] at hvf hhit
    obtain hfalse | hex := hhit.1 rfl
    · cases hfalse
    · exact .inl ⟨hvf, hex⟩
  | false =>
    rw [hc] at hvf hhit
    refine .inr ⟨hvf, fun px py hcov => Bool.eq_false_iff.2 fun hon => ?_⟩
    exact absurd (hhit.2 (.inr ⟨px, py, hcov, hon⟩)) Bool.false_ne_true

/-- Settles O18: the fault taken is a fault entry with the record of the first missing row. -/
theorem drwFaultsOnFirstMissingRow : Obligations.DrwFaultsOnFirstMissingRow := by
  intro x y n s r hr hmiss hfirst
  exact ⟨_, exec_drw_of_missing hr hmiss fun q hq => Nat.lt_succ_of_le (hfirst q hq), takeFault_faultedWith _ _ _ _⟩

/-- Settles O20: where the rows exist, the second draw covers the same pixels and inverts them back; where one is
missing, both draws fault and neither writes the framebuffer. -/
theorem drwTwiceRestoresScreen : Obligations.DrwTwiceRestoresScreen := by
  intro x y n s t he hx hy
  obtain ⟨sprite, hread⟩ | ⟨r, hr, hmiss, hfirst⟩ :=
    rows_exist_or_first_missing s (min n.toNat (32 - (s.getV (regIndex y)).toNat % 32))
  · obtain ⟨t', he', hpixel, -, -, -, hireg, -, -, -, -, hmem⟩ :=
      drwMatchesClosedForm x y n s _ _ _ sprite rfl rfl rfl hread
    cases he'.symm.trans he
    have hread' : ∀ r < min n.toNat (32 - (s.getV (regIndex y)).toNat % 32),
        readByte t (t.ireg.toNat + r) = .ok (sprite r) := fun r hr => by
      rw [hireg, hmem]
      exact hread r hr
    obtain ⟨u, heu, hpixel', -⟩ := drwMatchesClosedForm x y n t _ _ _ sprite hx.symm hy.symm rfl hread'
    refine ⟨u, heu, Screen.eq_of_pixel_eq fun px py => ?_⟩
    rw [hpixel', hpixel, Bool.xor_assoc, Bool.xor_self, Bool.xor_false]
  · obtain ⟨t', he', hfault⟩ := drwFaultsOnFirstMissingRow x y n s r hr hmiss hfirst
    cases he'.symm.trans he
    rw [← hy] at hr
    rw [← hfault.core.ireg] at hmiss hfirst
    obtain ⟨u, heu, hfault'⟩ := drwFaultsOnFirstMissingRow x y n t r hr hmiss hfirst
    exact ⟨u, heu, hfault'.core.fb.trans hfault.core.fb⟩

/-- Settles O19: a sprite of no rows has the closed form that covers no pixel. -/
theorem drwOfZeroRowsOnlyClearsVf : Obligations.DrwOfZeroRowsOnlyClearsVf := by
  intro x y s
  have hrows : 0 = min (0x0#4).toNat (32 - (s.getV (regIndex y)).toNat % 32) := (Nat.zero_min _).symm
  obtain ⟨t, he, hpixel, hvf, hframe⟩ := drwMatchesClosedForm x y 0x0#4 s _ _ 0 (fun _ => 0x00#8) rfl rfl hrows
    fun r hr => absurd hr (Nat.not_lt_zero r)
  refine ⟨t, he, Screen.eq_of_pixel_eq fun px py => ?_, ?_, hframe⟩
  · rw [hpixel, spriteCovers_zero, Bool.xor_false]
  · obtain ⟨-, px, py, hcov, -⟩ | ⟨hzero, -⟩ := hvf
    · rw [spriteCovers_zero] at hcov
      cases hcov
    · exact hzero

end Sys2Proof.Machine

/-! PROOFS of the family 45_unimplemented: an opcode of no row is one that dispatch does not recognize, and its cycle is
the entry of its fault on the advanced state. -/

namespace Sys2Proof.Machine

/-- Dispatch fails exactly where the search through the map does (R75, R76). -/
theorem dispatch_eq_none_iff_find?_eq_none {op : Word} :
    dispatch (decodeFields op) = none ↔ opcodeTable.find? (fun r => r.selects op) = none := by
  rw [← Option.map_eq_none_iff (f := Instr.mnemonic), dispatch_mnemonic, Option.map_eq_none_iff]

/-- The cycle of an unrecognized opcode is a fault entry on the advanced state (R140, R155). -/
theorem cycle_faultedWith_of_dispatch_none {s : State} {b0 b1 : Byte} (hf : fetch s = .ok (b0, b1))
    (hd : dispatch (decodeFields (opcodeOf b0 b1)) = none) :
    ∃ t, cycle s = .next t ∧ FaultedWith (fetched s (opcodeOf b0 b1)) t
      { kind := .unimplementedOpcode, pc := some s.pc, opcode := some (opcodeOf b0 b1), addr := none } :=
  ⟨_, cycle_of_dispatch_none hf hd, takeFault_faultedWith _ _ _ _⟩

/-- Settles O29: the fault entry keeps all else of the advanced state, which is the fetched one but for `PC` and the
trace. -/
theorem unrecognizedOpcodeFaults : Obligations.UnrecognizedOpcodeFaults := by
  intro s b0 b1 h0 h1 hnone
  obtain ⟨t, hc, hcore, hdirty, hhost, hrun, hfault⟩ :=
    cycle_faultedWith_of_dispatch_none (fetch_of_readByte h0 h1) (dispatch_eq_none_iff_find?_eq_none.2 hnone)
  obtain ⟨hv, hireg, hpc, ⟨hsp, hstack⟩, hfb, hmem, hparams⟩ := hcore
  obtain ⟨hdt, hst, hkeys, -, hschedule, -⟩ := hhost
  exact ⟨t, hc, hpc, hrun, hfault, hv, hireg, ⟨hsp, hstack⟩, ⟨hfb, hdirty⟩, hmem, hparams, hdt, hst, hkeys, hschedule⟩

end Sys2Proof.Machine

/-! PROOFS of the family 60_exceptions: the fault whose cause stands when an instruction runs, and what it leaves; the
trace of a cycle; the frame of the host's transactions, each as one update of the state; and what a boot leaves of `RUN`
and `FAULT`. -/

namespace Sys2Proof.Machine

variable {s t : State}

/-! ### Fault entry (R155) -/

/-- A fault taken with none latched records itself (R33, D12). -/
theorem FaultedWith.fault_eq_some {f : FaultRecord} (h : FaultedWith s t f) (hnone : s.fault = none) :
    t.fault = some f := by
  rw [h.fault, hnone, Option.getD_none]

theorem State.faultCode_of_fault_eq_some {f : FaultRecord} (h : s.fault = some f) : s.faultCode = f.kind.code := by
  simp only [State.faultCode, h]

/-- The faults an instruction has cause to raise: `CALL` at capacity, `RET` when empty, `DRW` at each processed row
whose byte does not exist (R101, R110, R132). -/
inductive FaultCause (s : State) : Instr → Raise → Prop
  | overflow (nnn : Addr12) (hfull : s.params.stackCap.val ≤ s.sp.val) : FaultCause s (.call nnn) .stackOverflow
  | underflow (hempty : s.sp.val = 0) : FaultCause s .ret .stackUnderflow
  | missingRow (x y n : Nibble) (r : Nat) (hr : r < spriteRows n (startRow s y))
      (hmiss : Config.memSize ≤ spriteAddress s + r) :
      FaultCause s (.drw x y n) (.addressOutOfRange (spriteAddress s + r))

/-- An instruction takes a fault it has cause for, or has none and leaves `RUN` and `FAULT` (R94, R155, R156). -/
theorem exec_takes_cause_or_keepsControl {i : Instr} (h : exec i s = .next t) :
    (∃ r, FaultCause s i r ∧ FaultedWith s t
      { kind := r.kind, pc := some (s.pc - 2#16), opcode := some (encode i), addr := r.addr }) ∨
    ((∀ r, ¬FaultCause s i r) ∧ KeepsControl s t) := by
  rcases exec_cases h with ⟨r, hf, hcause⟩ | ⟨rfl, rfl⟩ | ⟨rfl, hsp, rfl⟩ | ⟨nnn, rfl, hcap, h16, rfl⟩ |
    ⟨x, nn, rfl, rfl⟩ | ⟨nnn, rfl, rfl⟩ | ⟨x, y, n, rfl, hrows, c, -, rfl⟩
  · refine .inl ⟨r, ?_, hf⟩
    rcases hcause with ⟨nnn, rfl, hfull, rfl⟩ | ⟨rfl, hempty, rfl⟩ | ⟨x, y, n, rfl, q, hq, hmiss, -, rfl⟩
    · exact .overflow nnn hfull
    · exact .underflow hempty
    · exact .missingRow x y n q hq hmiss
  · exact .inr ⟨nofun, rfl, rfl⟩
  · exact .inr ⟨fun _ (.underflow hempty) => hsp hempty, rfl, rfl⟩
  · exact .inr ⟨fun _ (.overflow _ hfull) => Nat.not_lt.2 hfull hcap, rfl, rfl⟩
  · exact .inr ⟨nofun, rfl, rfl⟩
  · exact .inr ⟨nofun, rfl, rfl⟩
  · exact .inr ⟨fun _ (.missingRow _ _ _ r hr hmiss) => Nat.not_lt.2 hmiss (hrows r hr), rfl, rfl⟩

/-- From `Running`, an instruction halts iff it has cause for a fault (R155). -/
theorem exec_halts_iff_cause {i : Instr} (h : exec i s = .next t) (hr : s.run = .running) :
    t.run = .halted ↔ ∃ r, FaultCause s i r := by
  rcases exec_takes_cause_or_keepsControl h with ⟨r, hcause, hf⟩ | ⟨hnone, hkeeps⟩
  · exact iff_of_true hf.run ⟨r, hcause⟩
  · rw [hkeeps.run, hr]
    exact iff_of_false nofun fun ⟨r, hcause⟩ => hnone r hcause

/-- A fault newly latched by an instruction is one it has cause for (R33, D12). -/
theorem exec_latches_cause {i : Instr} {f : FaultRecord} (h : exec i s = .next t) (hnone : s.fault = none)
    (hf : t.fault = some f) : ∃ r, FaultCause s i r ∧ f.kind = r.kind ∧ f.addr = r.addr := by
  rcases exec_takes_cause_or_keepsControl h with ⟨r, hcause, hfault⟩ | ⟨-, hkeeps⟩
  · rw [hfault.fault_eq_some hnone] at hf
    cases hf
    exact ⟨r, hcause, rfl, rfl⟩
  · rw [hkeeps.fault, hnone] at hf
    cases hf

/-! ### The trace (R170) -/

/-- A cycle whose fetch succeeded adds its trace to the log, whatever the instruction does then. -/
theorem cycle_out_of_fetch_ok {b0 b1 : Byte} (hf : fetch s = .ok (b0, b1)) (hc : cycle s = .next t) :
    t.out = .trace s.pc (decodeFields (opcodeOf b0 b1)) :: s.out := by
  rcases cycle_of_fetch_ok hf hc with ⟨f, hfault⟩ | ⟨i, -, he, -⟩
  · exact hfault.host.out
  · exact (exec_keeps_mem_and_hostSide he).2.out

theorem cycle_out_of_fetch_error {r : Raise} (hf : fetch s = .error r) (hc : cycle s = .next t) : t.out = s.out := by
  cases (cycle_of_fetch_error hf).symm.trans hc
  exact (takeFault_faultedWith _ _ _ _).host.out

/-! ### The host's transactions (R160 to R169) -/

/-- A transaction other than boot writes the timers, the keys, `RUN` and `DIRTY` at most (R160, R180). -/
theorem hostEffect_eq {tr : Transaction} (hboot : ∀ rom, tr ≠ .boot rom) :
    hostEffect s tr =
      { s with dt := (hostEffect s tr).dt, st := (hostEffect s tr).st, keys := (hostEffect s tr).keys
               run := (hostEffect s tr).run, dirty := (hostEffect s tr).dirty } := by
  cases tr with
  | boot rom => exact absurd rfl (hboot rom)
  | timerSet tm b => cases tm <;> rfl
  | _ => rfl

/-- What no transaction but boot writes (R160, R180). -/
theorem transact_frame {tr : Transaction} (hboot : ∀ rom, tr ≠ .boot rom) :
    KeepsCore s (transact s tr) ∧ (transact s tr).fault = s.fault ∧ (transact s tr).schedule = s.schedule := by
  rw [transact_eq, hostEffect_eq hboot]
  exact ⟨⟨rfl, rfl, rfl, ⟨rfl, rfl⟩, rfl, rfl, rfl⟩, rfl, rfl⟩

/-- The schedule is not of the core. -/
theorem KeepsCore.of_setSchedule {l : List Turn} (h : KeepsCore (s.setSchedule l) t) : KeepsCore s t := by
  obtain ⟨hv, hireg, hpc, ⟨hsp, hstack⟩, hfb, hmem, hparams⟩ := h
  exact ⟨hv, hireg, hpc, ⟨hsp, hstack⟩, hfb, hmem, hparams⟩

/-- Pause and halt alone write `RUN`, boot aside (R167, R168). -/
theorem transact_run {tr : Transaction} (hboot : ∀ rom, tr ≠ .boot rom) (hpause : tr ≠ .pauseToggle)
    (hhalt : tr ≠ .haltRequest) : (transact s tr).run = s.run := by
  cases tr with
  | boot rom => exact absurd rfl (hboot rom)
  | pauseToggle => exact absurd rfl hpause
  | haltRequest => exact absurd rfl hhalt
  | timerSet tm b => cases tm <;> rfl
  | _ => rfl

/-- The clear alone writes `DIRTY`, boot aside (R166, D15). -/
theorem transact_dirty {tr : Transaction} (hboot : ∀ rom, tr ≠ .boot rom) (hclear : tr ≠ .dirtyClear) :
    (transact s tr).dirty = s.dirty := by
  cases tr with
  | boot rom => exact absurd rfl (hboot rom)
  | dirtyClear => exact absurd rfl hclear
  | timerSet tm b => cases tm <;> rfl
  | _ => rfl

theorem transact_pauseToggle (s : State) : transact s .pauseToggle = s.setRun s.run.toggle := rfl

theorem transact_haltRequest (s : State) : transact s .haltRequest = s.setRun .halted := rfl

theorem State.setRun_run_self (s : State) : s.setRun s.run = s := rfl

/-- Boot is the only transaction that leaves `Halted` (R157, D29). -/
theorem transact_run_of_halted {tr : Transaction} (hboot : ∀ rom, tr ≠ .boot rom) (hr : s.run = .halted) :
    (transact s tr).run = .halted := by
  by_cases hpause : tr = .pauseToggle
  · rw [hpause, transact_pauseToggle, hr]
    rfl
  by_cases hhalt : tr = .haltRequest
  · rw [hhalt, transact_haltRequest, State.setRun_run]
  · exact (transact_run hboot hpause hhalt).trans hr

/-- A tick is the truncated predecessor (R161, D14). -/
theorem tick_toNat (b : Byte) : (tick b).toNat = b.toNat - 1 := by
  unfold tick
  split <;> bv_omega

/-! ### No instruction reads `KEYS` (R164) -/

theorem takeFaultIn_setKeys (s : State) (k : Vector Bool 16) (r : Raise) (i : Instr) :
    takeFaultIn (s.setKeys k) r i = (takeFaultIn s r i).setKeys k := by
  simp only [takeFaultIn, takeFault_eq]
  rfl

/-- Every meaning passes `KEYS` through. -/
theorem exec_setKeys (k : Vector Bool 16) {i : Instr} (h : exec i s = .next t) :
    exec i (s.setKeys k) = .next (t.setKeys k) := by
  cases i with
  | cls => cases h; rfl
  | ldVx x nn => cases h; rfl
  | ldI nnn => cases h; rfl
  | ret =>
    rcases execRet_cases s with ⟨hne, he⟩ | ⟨h0, he⟩ <;> cases he.symm.trans h
    · rcases execRet_cases (s.setKeys k) with ⟨-, he'⟩ | ⟨h0, -⟩
      · exact he'
      · exact absurd h0 hne
    · rw [← takeFaultIn_setKeys]
      exact exec_ret_of_sp_eq_zero h0
  | call nnn =>
    rcases execCall_cases nnn s with ⟨hcap, _, he⟩ | ⟨hfull, he⟩ <;> cases he.symm.trans h
    · rcases execCall_cases nnn (s.setKeys k) with ⟨-, _, he'⟩ | ⟨hfull, -⟩
      · exact he'
      · exact absurd hcap (Nat.not_lt.2 hfull)
    · rw [← takeFaultIn_setKeys]
      exact exec_call_of_stackCap_le nnn hfull
  | drw x y n =>
    rcases execDrw_cases x y n s with ⟨hrows, c, rfl, he⟩ | ⟨r, hr, hmiss, hfirst, he⟩ <;> cases he.symm.trans h
    · rcases execDrw_cases x y n (s.setKeys k) with ⟨-, c, rfl, he'⟩ | ⟨r, hr, hmiss, -⟩
      · exact he'
      · exact absurd (hrows r hr) (Nat.not_lt.2 hmiss)
    · rw [← takeFaultIn_setKeys]
      exact exec_drw_of_missing hr hmiss hfirst

/-! ### Boot (R180 to R183) -/

theorem boot_run_and_fault_of_fits (s : State) {rom : List Byte} (hrom : rom.length ≤ Config.maxRom) :
    (boot s rom).run = .running ∧ (boot s rom).fault = none := by
  rcases boot_cases s rom with ⟨-, m, -, -, hb⟩ | ⟨hlarge, -⟩
  · rw [hb]
    exact ⟨rfl, rfl⟩
  · exact absurd hrom (Nat.not_le.2 hlarge)

theorem boot_run_and_fault_of_too_large (s : State) {rom : List Byte} (hlarge : Config.maxRom < rom.length) :
    (boot s rom).run = .halted ∧
    (boot s rom).fault = some { kind := .programTooLarge, pc := none, opcode := none, addr := none } := by
  rcases boot_cases s rom with ⟨hrom, -⟩ | ⟨-, m, -, -, hb⟩
  · exact absurd hrom (Nat.not_le.2 hlarge)
  · rw [hb]
    exact ⟨rfl, rfl⟩

/-! ### The obligations of the family -/

/-- Settles O25: an instruction that leaves `RUN` cannot have halted, so it took its fault. -/
theorem faultsInExecutionArePrecise : Obligations.FaultsInExecutionArePrecise := by
  intro i s t he hrun hhalt
  rcases exec_takes_cause_or_keepsControl he with ⟨r, -, hf⟩ | ⟨-, hkeeps⟩
  · exact ⟨_, hf, rfl, rfl⟩
  · exact absurd (hkeeps.run.symm.trans hhalt) hrun

/-- Settles O26: the causes of a fault, one by one. -/
theorem eachFaultHasOneCause : Obligations.EachFaultHasOneCause := by
  intro i s t he hr
  refine ⟨(exec_halts_iff_cause he hr).trans ⟨?_, ?_⟩, fun f hnone hf => ?_⟩
  · rintro ⟨_, ⟨nnn, hfull⟩ | hempty | ⟨x, y, n, r, hr, hmiss⟩⟩
    · exact .inl ⟨nnn, rfl, hfull⟩
    · exact .inr (.inl ⟨rfl, hempty⟩)
    · exact .inr (.inr ⟨x, y, n, rfl, r, hr, hmiss⟩)
  · rintro (⟨nnn, rfl, hfull⟩ | ⟨rfl, hempty⟩ | ⟨x, y, n, rfl, r, hr, hmiss⟩)
    · exact ⟨_, .overflow nnn hfull⟩
    · exact ⟨_, .underflow hempty⟩
    · exact ⟨_, .missingRow x y n r hr hmiss⟩
  · obtain ⟨r, hcause, hkind, haddr⟩ := exec_latches_cause he hnone hf
    cases hcause with
    | overflow nnn => exact .inl ⟨nnn, rfl, hkind, haddr⟩
    | underflow => exact .inr (.inl ⟨rfl, hkind, haddr⟩)
    | missingRow x y n r hr hmiss => exact .inr (.inr ⟨x, y, n, _, rfl, hkind, haddr, hmiss⟩)

/-- Settles O32, by the two answers of the fetch. -/
theorem traceIsSentOncePerFetchedCycle : Obligations.TraceIsSentOncePerFetchedCycle :=
  fun _ _ hc => ⟨fun _ _ hf => cycle_out_of_fetch_ok hf hc, fun _ hf => cycle_out_of_fetch_error hf hc⟩

/-- Settles O44: of the cases of a step, a halted state has the waiting turn, which moves the schedule alone, and the
transactions, of which only boot leaves `Halted`. -/
theorem haltedIsTerminalButForBoot : Obligations.HaltedIsTerminalButForBoot := by
  intro s t hr hs hboot
  have hnot : s.run ≠ .running := by rw [hr]; nofun
  rcases hsched : s.schedule with _ | ⟨_ | tr, rest⟩
  · rw [step_eq_lastIteration hsched, lastIteration_of_halted hr] at hs
    cases hs
  · rw [step_eq_iteration hsched, iteration_of_not_running (s := s.setSchedule rest) hnot] at hs
    cases hs
    exact ⟨hr, rfl, rfl, rfl, rfl, ⟨rfl, rfl⟩, rfl, rfl, rfl⟩
  · rw [step_eq_transact hsched] at hs
    cases hs
    have htr : ∀ rom, tr ≠ .boot rom := fun rom heq => hboot rom rest (heq ▸ hsched)
    obtain ⟨hcore, hfault, -⟩ := transact_frame (s := s.setSchedule rest) htr
    exact ⟨transact_run_of_halted htr hr, hfault, hcore.of_setSchedule⟩

/-- Settles O47: a boot by the size of the ROM, and no cause of a fault is `ProgramTooLarge`. -/
theorem tooLargeProgramHaltsAtBoot : Obligations.TooLargeProgramHaltsAtBoot := by
  refine ⟨fun s _ => boot_run_and_fault_of_fits s, fun s _ => boot_run_and_fault_of_too_large s,
    fun i s t f he hnone hf => ?_⟩
  obtain ⟨r, hcause, hkind, -⟩ := exec_latches_cause he hnone hf
  rw [hkind]
  cases hcause <;> nofun

/-- Settles O24: the entry of a fault, whose record is latched when none was. -/
theorem faultEntryLatchesAndHalts : Obligations.FaultEntryLatchesAndHalts :=
  fun s r pc op => ⟨takeFault_faultedWith s r pc op, fun hnone =>
    State.faultCode_of_fault_eq_some ((takeFault_faultedWith s r pc op).fault_eq_some hnone)⟩

/-- Settles O36, by the frame of the transactions. -/
theorem hostTransactionsKeepTheCore : Obligations.HostTransactionsKeepTheCore := by
  intro s tr hboot
  obtain ⟨hcore, hfault, hschedule⟩ := transact_frame (s := s) hboot
  exact ⟨hcore, hfault, transact_run hboot, transact_dirty hboot, hschedule⟩

/-- Settles O37: each timer is ticked, and nothing else is written. -/
theorem timerTickCountsDownToZero : Obligations.TimerTickCountsDownToZero :=
  fun s => ⟨tick_toNat s.dt, tick_toNat s.st, rfl, rfl⟩

/-- Settles O38: the update is the named timer's, and the timers are of the host's side, which instructions keep. -/
theorem timerSetSetsTheNamedTimer : Obligations.TimerSetSetsTheNamedTimer := by
  refine ⟨fun s b => ⟨rfl, rfl⟩, fun i s t he => ?_⟩
  obtain ⟨-, hhost⟩ := exec_keeps_mem_and_hostSide he
  exact ⟨hhost.dt, hhost.st⟩

/-- Settles O39: the read has an answer and no effect. -/
theorem timerGetAnswersTheTimer : Obligations.TimerGetAnswersTheTimer :=
  fun _ => ⟨rfl, rfl, bne_iff_ne⟩

/-- Settles O40: the transaction is one update, and `exec_setKeys` is the second half. -/
theorem keysWriteCannotAffectExecution : Obligations.KeysWriteCannotAffectExecution :=
  ⟨fun _ _ => rfl, fun _ _ _ k he => exec_setKeys k he⟩

/-- Settles O41: each port is one update of the log or of `DIRTY`. -/
theorem screenAndDirtyPorts : Obligations.ScreenAndDirtyPorts :=
  fun _ => ⟨fun _ _ => rfl, rfl, rfl, rfl⟩

/-- Settles O42: the transaction writes `RUN` with its toggle, which is itself in `Halted`. -/
theorem pauseTogglesRunningAndPaused : Obligations.PauseTogglesRunningAndPaused := by
  intro s
  rw [transact_pauseToggle]
  refine ⟨fun hr => ?_, fun hr => ?_, fun hr => ?_⟩
  · rw [hr]; rfl
  · rw [hr]; rfl
  · have hself : s.run.toggle = s.run := by rw [hr]; rfl
    rw [hself, State.setRun_run_self]

/-- Settles O43: the transaction writes `RUN` alone, and it is the step of its turn. -/
theorem haltRequestHaltsWithoutFault : Obligations.HaltRequestHaltsWithoutFault :=
  ⟨fun _ => rfl, fun _ _ hs => ⟨_, step_eq_transact hs, rfl, rfl⟩⟩

end Sys2Proof.Machine

/-! PROOFS of the family 70_reset_and_hazards: what memory holds after a boot; the good end; and the termination of
every run, by the bytes that each depth of the call stack still has ahead of it. -/

namespace Sys2Proof.Machine

variable {s t : State}

/-! ### Memory after a boot (R180 to R183) -/

theorem transact_boot (s : State) (rom : List Byte) : transact s (.boot rom) = boot s rom := rfl

/-- A ROM that fits stands at `PROG_BASE` (R182). -/
theorem readByte_boot_rom (s : State) {rom : List Byte} (hrom : rom.length ≤ Config.maxRom) {j : Nat}
    (hj : j < rom.length) : readByte (boot s rom) (Config.progBase + j) = .ok rom[j] := by
  have ha : Config.progBase + j < Config.memSize := by
    rw [Config.maxRom_eq] at hrom
    rw [Config.progBase_eq, Config.memSize_eq]
    omega
  rcases boot_cases s rom with ⟨-, m, -, hget, hb⟩ | ⟨hlarge, -⟩
  · rw [readByte_of_lt ha, hb]
    refine congrArg Except.ok ((hget _).trans ?_)
    simp only [Nat.le_add_right, Nat.add_lt_add_left hj, and_self, dif_pos, Nat.add_sub_cancel_left]
  · exact absurd hrom (Nat.not_le.2 hlarge)

/-- Outside the ROM, and everywhere when the ROM is too large, a boot leaves the reset contents (R36, R181, R183). -/
theorem readByte_boot_outside_rom (s : State) {rom : List Byte} {a : Nat} (ha : a < Config.memSize)
    (hout : Config.maxRom < rom.length ∨ a < Config.progBase ∨ Config.progBase + rom.length ≤ a) :
    readByte (boot s rom) a = .ok (Memory.unlisted s.params a) := by
  rcases boot_cases s rom with ⟨hrom, m, -, hget, hb⟩ | ⟨-, m, -, hget, hb⟩
  · have hnot : ¬(Config.progBase ≤ a ∧ a < Config.progBase + rom.length) := by omega
    rw [readByte_of_lt ha, hb]
    exact congrArg Except.ok ((hget a).trans (dif_neg hnot))
  · rw [readByte_of_lt ha, hb]
    exact congrArg Except.ok (hget a)

/-- The font lies below the program (R5). -/
theorem fontBase_add_lt_progBase (p : Params) {j : Nat} (hj : j < Config.fontLen) :
    p.fontBase.val + j < Config.progBase :=
  Nat.lt_of_lt_of_le (Nat.add_lt_add_left hj _) p.fontBase.property

/-- A boot loads the font, whatever the ROM (R181, R183). -/
theorem readByte_boot_font (s : State) (rom : List Byte) {j : Nat} (hj : j < Config.fontLen) :
    readByte (boot s rom) (s.params.fontBase.val + j) = .ok s.params.fontTable[j] := by
  have hlt := fontBase_add_lt_progBase s.params hj
  rw [readByte_boot_outside_rom s (Nat.lt_trans hlt (by decide)) (.inr (.inl hlt)), Memory.unlisted_font _ hj]

/-- Outside the ROM and the font a boot leaves `0x00` (R36, D3). -/
theorem readByte_boot_outside_font (s : State) {rom : List Byte} {a : Nat} (ha : a < Config.memSize)
    (hout : Config.maxRom < rom.length ∨ a < Config.progBase ∨ Config.progBase + rom.length ≤ a)
    (hfont : a < s.params.fontBase.val ∨ s.params.fontBase.val + Config.fontLen ≤ a) :
    readByte (boot s rom) a = .ok 0x00#8 := by
  rw [readByte_boot_outside_rom s ha hout, Memory.unlisted_outside_font _ hfont]

/-- A boot that fits leaves all but memory at its reset value, the host's schedule and log apart (R36, R183). -/
theorem boot_eq_resetWith_of_fits (s : State) {rom : List Byte} (hrom : rom.length ≤ Config.maxRom) :
    { boot s rom with mem := [] } = { State.resetWith s.params with schedule := s.schedule, out := s.out } := by
  rcases boot_cases s rom with ⟨-, m, -, -, hb⟩ | ⟨hlarge, -⟩
  · rw [hb]
    rfl
  · exact absurd hrom (Nat.not_le.2 hlarge)

/-! ### The bytes ahead of each depth of the call stack (R193)

Along a run the depth `SP` rises and falls, but at the depth a cycle starts from, the address where the code at that
depth goes on moves forward: by the advance of `PC`, which a `CALL` saves as the return address, and a `RET` leaves the
depth altogether. So the bytes from these addresses to the end of memory fall, the lowest depth compared first. -/

/-- The bytes from the address where depth `j` goes on to the end of memory: the saved return address below `SP`, `PC`
at `SP`; a depth above `SP` is not in use. -/
def State.bytesAhead (s : State) (j : Fin 17) : Nat :=
  if h : j.val < s.sp.val then Config.memSize - (s.stack[j.val]'(by omega)).toNat
  else if j = s.sp then Config.memSize - s.pc.toNat
  else 0

theorem State.bytesAhead_castSucc (s : State) {k : Fin 16} (hk : k.castSucc < s.sp) :
    s.bytesAhead k.castSucc = Config.memSize - s.stack[k].toNat :=
  dif_pos hk

theorem State.bytesAhead_sp (s : State) : s.bytesAhead s.sp = Config.memSize - s.pc.toNat := by
  rw [State.bytesAhead, dif_neg (Nat.lt_irrefl _), if_pos rfl]

theorem State.bytesAhead_of_sp_lt (s : State) {j : Fin 17} (hj : s.sp < j) : s.bytesAhead j = 0 := by
  rw [State.bytesAhead, dif_neg (Nat.lt_asymm hj), if_neg (Fin.ne_of_gt hj)]

theorem State.bytesAhead_congr (hstack : KeepsStack s t) (hpc : t.pc = s.pc) (j : Fin 17) :
    t.bytesAhead j = s.bytesAhead j := by
  simp only [State.bytesAhead, hstack.sp, hstack.stack, hpc]

/-- Below `SP` what lies ahead depends on the saved return addresses alone. -/
theorem State.bytesAhead_congr_of_lt {j : Fin 17} (hs : j < s.sp) (ht : j < t.sp)
    (hstack : ∀ k : Fin 16, k.castSucc = j → t.stack[k] = s.stack[k]) : t.bytesAhead j = s.bytesAhead j := by
  obtain ⟨k, rfl⟩ := Fin.exists_castSucc_eq.2 (Fin.ne_last_of_lt hs)
  rw [State.bytesAhead_castSucc s hs, State.bytesAhead_castSucc t ht, hstack k rfl]

/-- From `s` to `t` the depths below the one `s` runs at have as much ahead as before, and that depth has no more: all
that an instruction does to the order of R193. -/
structure AheadKeptTo (s t : State) : Prop where
  below : ∀ j < s.sp, t.bytesAhead j = s.bytesAhead j
  at_sp : t.bytesAhead s.sp ≤ s.bytesAhead s.sp

theorem AheadKeptTo.of_keepsStack (hstack : KeepsStack s t) (hpc : t.pc = s.pc) : AheadKeptTo s t where
  below j _ := State.bytesAhead_congr hstack hpc j
  at_sp := (State.bytesAhead_congr hstack hpc s.sp).le

/-- A `RET` leaves its depth, and the one below goes on at its saved return address (R101). -/
theorem aheadKeptTo_ret {k : Fin 16} (hk : s.sp = k.succ) :
    AheadKeptTo s ((s.setSp k.castSucc).setPc s.stack[k]) where
  below j hj := by
    rw [hk] at hj
    obtain rfl | hlt := (Fin.le_castSucc_iff.2 hj).eq_or_lt
    · have hbelow : k.castSucc < s.sp := hk ▸ Fin.castSucc_lt_succ
      exact (State.bytesAhead_sp _).trans (s.bytesAhead_castSucc hbelow).symm
    · have hs : j < s.sp := hk ▸ hlt.trans Fin.castSucc_lt_succ
      exact State.bytesAhead_congr_of_lt hs hlt fun _ _ => rfl
  at_sp := by
    have hlt : ((s.setSp k.castSucc).setPc s.stack[k]).sp < s.sp := hk ▸ Fin.castSucc_lt_succ
    rw [State.bytesAhead_of_sp_lt _ hlt]
    exact Nat.zero_le _

/-- A `CALL` saves `PC` as the address where its depth goes on (R110). -/
theorem aheadKeptTo_call {k : Fin 16} (hk : s.sp = k.castSucc) (a : Word) :
    AheadKeptTo s ((s.setStack k s.pc k.succ).setPc a) where
  below j hj := by
    have ht : j < k.succ := (hk ▸ hj).trans Fin.castSucc_lt_succ
    refine State.bytesAhead_congr_of_lt hj ht fun i hi => s.setStack_getElem_ne ?_ s.pc k.succ
    rintro rfl
    exact hj.ne (hi.symm.trans hk.symm)
  at_sp := by
    have hsaved := ((s.setStack k s.pc k.succ).setPc a).bytesAhead_castSucc (k := k) Fin.castSucc_lt_succ
    rw [State.setPc_stack, State.setStack_getElem_same] at hsaved
    rw [State.bytesAhead_sp, hk, hsaved]

theorem exec_aheadKeptTo {i : Instr} (h : exec i s = .next t) : AheadKeptTo s t := by
  rcases exec_cases h with ⟨r, hf, -⟩ | ⟨-, rfl⟩ | ⟨rfl, hsp, -⟩ | ⟨nnn, rfl, hcap, -⟩ | ⟨x, nn, -, rfl⟩ |
    ⟨nnn, -, rfl⟩ | ⟨x, y, n, -, -, c, -, rfl⟩
  · exact .of_keepsStack hf.core.stack hf.core.pc
  · exact .of_keepsStack ⟨rfl, rfl⟩ rfl
  · obtain ⟨k, hk⟩ := Fin.exists_succ_eq.2 (Fin.val_ne_zero_iff.1 hsp)
    cases (exec_ret_of_sp_eq_succ hk.symm).symm.trans h
    exact aheadKeptTo_ret hk.symm
  · obtain ⟨k, hk, he⟩ := exec_call_of_sp_lt nnn hcap
    cases he.symm.trans h
    exact aheadKeptTo_call hk _
  all_goals exact .of_keepsStack ⟨rfl, rfl⟩ rfl

/-- The advance takes two of the bytes ahead, and takes none from the depths below (R92). -/
theorem fetched_bytesAhead (hpc : s.pc.toNat + 1 < Config.memSize) (op : Word) :
    (∀ j < s.sp, (fetched s op).bytesAhead j = s.bytesAhead j) ∧
    (fetched s op).bytesAhead s.sp < s.bytesAhead s.sp := by
  refine ⟨fun j hj => State.bytesAhead_congr_of_lt hj hj fun _ _ => rfl, ?_⟩
  have hsp := (fetched s op).bytesAhead_sp
  rw [fetched_sp, fetched_pc] at hsp
  rw [hsp, State.bytesAhead_sp]
  rw [Config.memSize_eq] at hpc ⊢
  bv_omega

/-! ### A run, cycle by cycle (R155, R193) -/

theorem FaultedWith.fault_ne_none {f : FaultRecord} (h : FaultedWith s t f) : t.fault ≠ none := by
  rw [h.fault]
  exact Option.some_ne_none _

/-- A cycle takes a fault, or completes with fewer bytes ahead in the order of R193. -/
theorem cycle_faultedWith_or_bytesAhead_lt (hc : cycle s = .next t) :
    (∃ u f, FaultedWith u t f) ∨
    (t.run = s.run ∧ t.schedule = s.schedule ∧ toLex t.bytesAhead < toLex s.bytesAhead) := by
  cases hf : fetch s with
  | error r =>
    cases (cycle_of_fetch_error hf).symm.trans hc
    exact .inl ⟨_, _, takeFault_faultedWith _ _ _ _⟩
  | ok b =>
    rcases cycle_of_fetch_ok hf hc with ⟨f, hfault⟩ | ⟨i, -, he, hkeeps⟩
    · exact .inl ⟨_, f, hfault⟩
    · obtain ⟨hbelow, hat⟩ := fetched_bytesAhead (fetch_ok hf) (opcodeOf b.1 b.2)
      obtain ⟨hbelow', hat'⟩ := exec_aheadKeptTo he
      obtain ⟨-, hhost⟩ := exec_keeps_mem_and_hostSide he
      exact .inr ⟨hkeeps.run, hhost.schedule, s.sp, fun j hj => (hbelow' j hj).trans (hbelow j hj), hat'.trans_lt hat⟩

theorem run_succ_of_step (k : Nat) (h : step s = .next t) : Host.Core.run core (k + 1) s = Host.Core.run core k t := by
  have hstep : core.step s = .next t := h
  simp only [Host.Core.run, hstep]

/-! ### The obligations of the family -/

/-- Settles O46: a boot that fits is the first case of a boot, and its memory is the ROM over the reset contents. -/
theorem bootPlacesFontAndRom : Obligations.BootPlacesFontAndRom := by
  intro s rom hrom
  refine ⟨boot s rom, transact_boot s rom, fun j => readByte_boot_rom s hrom, fun j => readByte_boot_font s rom,
    fun a ha hout hfont => ?_, boot_eq_resetWith_of_fits s hrom⟩
  exact readByte_boot_outside_font s (Nat.lt_succ_of_le ha) (.inr hout) hfont

/-- Settles O53, by induction on the bytes ahead: the cycle that begins the run takes a fault, or has fewer of them. -/
theorem everyRunTerminates : Obligations.EveryRunTerminates := by
  intro s
  induction s using (InvImage.wf (fun s : State => toLex s.bytesAhead) wellFounded_lt).induction with
  | _ s ih =>
  intro hr hs
  obtain ⟨t, hc⟩ := cycle_next s
  have hstep : step s = .next t := (step_eq_cycle hr hs).trans hc
  rcases cycle_faultedWith_or_bytesAhead_lt hc with ⟨u, f, hfault⟩ | ⟨hrun, hschedule, hlt⟩
  · exact ⟨1, t, run_succ_of_step 0 hstep, hfault.run, hfault.fault_ne_none⟩
  · obtain ⟨k, v, hk, hend⟩ := ih t hlt (hrun.trans hr) (hschedule.trans hs)
    exact ⟨k + 1, v, (run_succ_of_step k hstep).trans hk, hend⟩

/-- Settles O48: with a ROM too large a boot leaves the reset contents everywhere, and the font ends below `0x200`. -/
theorem tooLargeProgramWritesNoByte : Obligations.TooLargeProgramWritesNoByte := by
  intro s rom hlarge
  refine ⟨fun a hprog ha => ?_, fun j => readByte_boot_font s rom⟩
  exact readByte_boot_outside_font s (Nat.lt_succ_of_le ha) (.inl hlarge)
    (.inr (Nat.le_trans s.params.fontBase.property hprog))

/-- Settles O52: no row of the map selects `0x0000`, and the fault of its cycle is the first one latched. -/
theorem zeroOpcodeIsTheGoodEnd : Obligations.ZeroOpcodeIsTheGoodEnd := by
  intro s hr hs hnone h0 h1
  have hd : dispatch (decodeFields (opcodeOf 0x00#8 0x00#8)) = none := rfl
  obtain ⟨t, hc, hfault⟩ := cycle_faultedWith_of_dispatch_none (fetch_of_readByte h0 h1) hd
  exact ⟨t, (step_eq_cycle hr hs).trans hc, hfault.run, hfault.fault_eq_some hnone⟩

end Sys2Proof.Machine
